-- ==== Sys2Proof/Word.lean ====
section
/-! DEFINITION. The block's words and byte sequences (spec/00_scope.md rules R8 to R10).

No value of the block is signed (rule R8): a word of the compression functions is a `BitVec`, so that `+`
is the `+W` of rule R9, `&&&`, `|||`, `^^^` and `~~~` its bitwise operators and `>>>` its logical right
shift.  A byte sequence is a list, first byte presented first (rules R10 and R41).  Counts, lengths and
the integers that pass through `pack` and `unpack` are natural numbers. -/

namespace Sys2Proof

/-- Rule R10: a byte, a natural number 0..255. -/
abbrev Byte := BitVec 8

/-- Rule R10: a byte sequence; `s[0]` is the first byte presented (rule R41). -/
abbrev Bytes := List Byte

/-- Rule R46: the word of MD5, SHA-1, SHA-256 and of ROTL and ROTR with W64 = 0. -/
abbrev Word32 := BitVec 32

/-- Rule R46: the word of SHA-512 and of ROTL and ROTR with W64 = 1. -/
abbrev Word64 := BitVec 64

end Sys2Proof
end

