-- ==== Sys2Proof/Syntax.lean ====
section
/-! DEFINITION. The commands of the block, one constructor per row of spec/opcode_table.json
(spec/30_encoding.md rule R71), and the meanings of the command word's fields (rules R61 to R67).

A command's payload is not part of the command word (rule R73): it is the PAYLOAD port register, in
State.  The thirteen constructors are the whole command set (rule R76). -/

namespace Sys2Proof

/-- Rules R6 and R63: the four algorithms. -/
inductive Alg
  | md5
  | sha1
  | sha256
  | sha512
deriving DecidableEq, Repr

/-- Rules R42 and R64: the byte order of a multi-byte value. -/
inductive Endian
  | big
  | little
deriving DecidableEq, Repr

/-- Rule R65: the width a rotate command works at, W64 = 0 or W64 = 1. -/
inductive RotWidth
  | w32
  | w64
deriving DecidableEq, Repr

/-- Rule R71: the commands.  `amt` is the rotate amount of the AMT field (rule R66) and `wsc` the code of
the WS field, whose word size is `2 ^ wsc` bytes (rule R67); `WellFormed` gives their ranges. -/
inductive Instr
  | init (alg : Alg)
  | update
  | digest
  | hexdigest
  | compressMd5
  | compressSha1
  | compressSha256
  | compressSha512
  | pad (alg : Alg)
  | rotl (w : RotWidth) (amt : Nat)
  | rotr (w : RotWidth) (amt : Nat)
  | pack (order : Endian) (wsc : Nat)
  | unpack (order : Endian) (wsc : Nat)
deriving DecidableEq, Repr

end Sys2Proof
end

