-- ==== Sys2Proof/WellFormed.lean ====
section
/-! DEFINITION. The well-formed commands: those whose operands fit their fields (spec/30_encoding.md rules
R61 and R74: an assembler refuses an amount above 63 and a word size outside 1, 2, 4 and 8). -/

namespace Sys2Proof

/-- Rule R66: AMT is an unsigned 6-bit number. -/
def amountOk (amt : Nat) : Bool := decide (amt < 64)

/-- Rule R67: WS is a 2-bit code, for the word sizes 1, 2, 4 and 8. -/
def wordSizeOk (wsc : Nat) : Bool := decide (wsc < 4)

/-- Every operand fits its field of the command word (rule R61). -/
def Instr.wellFormed : Instr → Bool
  | .init _ => true
  | .update => true
  | .digest => true
  | .hexdigest => true
  | .compressMd5 => true
  | .compressSha1 => true
  | .compressSha256 => true
  | .compressSha512 => true
  | .pad _ => true
  | .rotl _ amt => amountOk amt
  | .rotr _ amt => amountOk amt
  | .pack _ wsc => wordSizeOk wsc
  | .unpack _ wsc => wordSizeOk wsc

/-- The predicate form of `Instr.wellFormed`. -/
abbrev Instr.WellFormed (i : Instr) : Prop := i.wellFormed = true

end Sys2Proof
end

