-- ==== Sys2Proof/Decode.lean ====
section
/-! DEFINITION. Decoding a command word and encoding a command (spec/30_encoding.md rules R61 to R73;
spec/opcode_table.json).

`decode` follows the pseudocode of rule R62 and rejects by name; `encode` is written from the encodings
of rule R71; `opcodeTable` is rule R71's own table of match and mask values. -/

namespace Sys2Proof

/-- Rule R72: why a command word is illegal.  Either reason raises ILLEGAL_COMMAND (rule R260). -/
inductive DecodeError
  /-- OP is 0x0 or 0xB..0xF. -/
  | reservedOpcode (op : Nat)
  /-- A bit outside 0x0000000F | FREE(OP) is not 0. -/
  | reservedBits (op : Nat)
deriving DecidableEq, Repr

/-! ## The fields of the command word, rule R61 -/

/-- Bits [3:0]. -/
def opField (cmd : Word32) : Nat := (cmd.extractLsb' 0 4).toNat

/-- Bits [5:4], rules R6 and R63: 0 MD5, 1 SHA-1, 2 SHA-256, 3 SHA-512. -/
def algField (cmd : Word32) : Alg :=
  match cmd.getLsbD 5, cmd.getLsbD 4 with
  | false, false => .md5
  | false, true => .sha1
  | true, false => .sha256
  | true, true => .sha512

/-- Bit 6, rule R64: 1 little-endian, 0 big-endian. -/
def leField (cmd : Word32) : Endian := if cmd.getLsbD 6 then .little else .big

/-- Bit 7, rule R65: 0 means W = 32 and 1 means W = 64. -/
def w64Field (cmd : Word32) : RotWidth := if cmd.getLsbD 7 then .w64 else .w32

/-- Bits [13:8], rule R66. -/
def amtField (cmd : Word32) : Nat := (cmd.extractLsb' 8 6).toNat

/-- Bits [15:14], rule R67. -/
def wsField (cmd : Word32) : Nat := (cmd.extractLsb' 14 2).toNat

/-! ## Decoding -/

/-- Rule R62: FREE(op), the bits the opcode uses beyond OP; none for a reserved OP (rule R72). -/
def freeMask : Nat → Option Word32
  | 0x1 => some 0x00000030#32
  | 0x2 => some 0x00000000#32
  | 0x3 => some 0x00000000#32
  | 0x4 => some 0x00000000#32
  | 0x5 => some 0x00000030#32
  | 0x6 => some 0x00000030#32
  | 0x7 => some 0x00003F80#32
  | 0x8 => some 0x00003F80#32
  | 0x9 => some 0x0000C040#32
  | 0xA => some 0x0000C040#32
  | _ => none

/-- Rule R71: the COMPRESS command of an algorithm. -/
def compressInstr : Alg → Instr
  | .md5 => .compressMd5
  | .sha1 => .compressSha1
  | .sha256 => .compressSha256
  | .sha512 => .compressSha512

/-- Rule R71: the opcode with its fields; none for a reserved OP. -/
def withFields (op : Nat) (cmd : Word32) : Option Instr :=
  match op with
  | 0x1 => some (.init (algField cmd))
  | 0x2 => some .update
  | 0x3 => some .digest
  | 0x4 => some .hexdigest
  | 0x5 => some (compressInstr (algField cmd))
  | 0x6 => some (.pad (algField cmd))
  | 0x7 => some (.rotl (w64Field cmd) (amtField cmd))
  | 0x8 => some (.rotr (w64Field cmd) (amtField cmd))
  | 0x9 => some (.pack (leField cmd) (wsField cmd))
  | 0xA => some (.unpack (leField cmd) (wsField cmd))
  | _ => none

/-- Rule R62: decode(CMD). -/
def decode (cmd : Word32) : Except DecodeError Instr :=
  match freeMask (opField cmd), withFields (opField cmd) cmd with
  | some free, some i =>
    if cmd &&& ~~~(0x0000000F#32 ||| free) = 0#32 then .ok i
    else .error (.reservedBits (opField cmd))
  | _, _ => .error (.reservedOpcode (opField cmd))

/-- The instruction the decoder reads from an instruction whose `nbits` bits are `w`, bit 0 the least
significant bit of the command word; every bit above `nbits` is 0.  A command word is exactly 32 bits
(rule R73), so a longer one is no command. -/
def decodeTableWord (nbits w : Nat) : Option Instr :=
  if w % 2 ^ nbits < 2 ^ 32 then (decode (BitVec.ofNat 32 (w % 2 ^ nbits))).toOption else none

/-! ## Encoding -/

/-- Rule R6: the 2-bit code ALG of an algorithm. -/
def Alg.code : Alg → Nat
  | .md5 => 0
  | .sha1 => 1
  | .sha256 => 2
  | .sha512 => 3

/-- Rule R64: the LE bit of a byte order. -/
def Endian.code : Endian → Nat
  | .big => 0
  | .little => 1

/-- Rule R65: the W64 bit of a rotate width. -/
def RotWidth.code : RotWidth → Nat
  | .w32 => 0
  | .w64 => 1

/-- A field's value at its place in the command word. -/
def fieldAt (value lo : Nat) : Word32 := BitVec.ofNat 32 value <<< lo

/-- Rule R71: the command word of a well-formed command. -/
def encode : Instr → Word32
  | .init alg => 0x00000001#32 ||| fieldAt alg.code 4
  | .update => 0x00000002#32
  | .digest => 0x00000003#32
  | .hexdigest => 0x00000004#32
  | .compressMd5 => 0x00000005#32
  | .compressSha1 => 0x00000015#32
  | .compressSha256 => 0x00000025#32
  | .compressSha512 => 0x00000035#32
  | .pad alg => 0x00000006#32 ||| fieldAt alg.code 4
  | .rotl w amt => 0x00000007#32 ||| fieldAt w.code 7 ||| fieldAt amt 8
  | .rotr w amt => 0x00000008#32 ||| fieldAt w.code 7 ||| fieldAt amt 8
  | .pack order wsc => 0x00000009#32 ||| fieldAt order.code 6 ||| fieldAt wsc 14
  | .unpack order wsc => 0x0000000A#32 ||| fieldAt order.code 6 ||| fieldAt wsc 14

/-! ## The opcode table -/

/-- One row of rule R71's table: a word selects the row when `word &&& mask = pattern`. -/
structure OpcodeRow where
  mnemonic : String
  pattern : Word32
  mask : Word32
deriving DecidableEq, Repr

/-- Rule R71: the word selects the row. -/
def OpcodeRow.selects (row : OpcodeRow) (cmd : Word32) : Bool := cmd &&& row.mask == row.pattern

/-- Rule R71: the thirteen rows, in the table's order. -/
def opcodeTable : List OpcodeRow :=
  [ ⟨"INIT", 0x00000001#32, 0xFFFFFFCF#32⟩,
    ⟨"UPDATE", 0x00000002#32, 0xFFFFFFFF#32⟩,
    ⟨"DIGEST", 0x00000003#32, 0xFFFFFFFF#32⟩,
    ⟨"HEXDIGEST", 0x00000004#32, 0xFFFFFFFF#32⟩,
    ⟨"COMPRESS.MD5", 0x00000005#32, 0xFFFFFFFF#32⟩,
    ⟨"COMPRESS.SHA1", 0x00000015#32, 0xFFFFFFFF#32⟩,
    ⟨"COMPRESS.SHA256", 0x00000025#32, 0xFFFFFFFF#32⟩,
    ⟨"COMPRESS.SHA512", 0x00000035#32, 0xFFFFFFFF#32⟩,
    ⟨"PAD", 0x00000006#32, 0xFFFFFFCF#32⟩,
    ⟨"ROTL", 0x00000007#32, 0xFFFFC07F#32⟩,
    ⟨"ROTR", 0x00000008#32, 0xFFFFC07F#32⟩,
    ⟨"PACK", 0x00000009#32, 0xFFFF3FBF#32⟩,
    ⟨"UNPACK", 0x0000000A#32, 0xFFFF3FBF#32⟩ ]

/-- The mnemonic of a command's row in the opcode table. -/
def Instr.mnemonic : Instr → String
  | .init _ => "INIT"
  | .update => "UPDATE"
  | .digest => "DIGEST"
  | .hexdigest => "HEXDIGEST"
  | .compressMd5 => "COMPRESS.MD5"
  | .compressSha1 => "COMPRESS.SHA1"
  | .compressSha256 => "COMPRESS.SHA256"
  | .compressSha512 => "COMPRESS.SHA512"
  | .pad _ => "PAD"
  | .rotl _ _ => "ROTL"
  | .rotr _ _ => "ROTR"
  | .pack _ _ => "PACK"
  | .unpack _ _ => "UNPACK"

end Sys2Proof
end

