-- ==== Sys2Proof/Config.lean ====
section
/-! DEFINITION. What the spec leaves to the platform the block stands in.

The block itself has one fixed set of implementation parameters (spec/00_scope.md rule R6), which the
files under Machine/ state.  Its one OPEN parameter is the number of instances,
NUM_INSTANCES ≥ 1 (rule R7(c), spec/92_eei_decisions.md D29): a free constant here. -/

namespace Sys2Proof.Config

/-- Log entry 4, DESIGN CHOICE, safe.  How many instances the platform has beyond the first; no value of it can be proved. -/
opaque furtherInstances : Nat

/-- D29: the platform parameter NUM_INSTANCES, which is at least 1 and otherwise open. -/
def numInstances : Nat := furtherInstances + 1

end Sys2Proof.Config
end

