-- ==== Sys2Proof/Machine/State.lean ====
section
/-! DEFINITION. Everything the spec gives the machine (spec/10_state.md rules R20 to R33), the host's side
of the port (spec/70_reset_and_hazards.md rule R296), and the reset state (rules R32, R290).

An instance holds VALID, ALG, H, BUF and BLOCKS.  While VALID = 0 the other four "hold no value", and
"a model must not give these elements a value" (rules R20, R32, R299): the state of the engine
before its first INIT is the spec's own state "not initialized" (spec/46_engine.md).  So they stand
together as one `Option Engine`, whose `none` is VALID = 0 (log entry 1: DEDUCED, safe). -/

namespace Sys2Proof.Machine

/-! ## Statuses, rule R260 -/

/-- Rule R260: the causes a command ends with other than OK. -/
inductive Error
  | illegalCommand
  | invalidInput
  | notInitialized
  | precondition
deriving DecidableEq, Repr

/-- Rules R27 and R260: the STATUS of a response; `Status.code` gives the 8-bit codes. -/
inductive Status
  | ok
  | error (e : Error)
deriving DecidableEq, Repr

/-! ## The hash state, rules R20, R23 and R30

Each structure is both the chaining value of its algorithm and the working variables of its compression
function: `a` is word 0, `b` word 1, and so on. -/

/-- Rule R140: the four 32-bit words of MD5. -/
structure Md5Words where
  a : Word32
  b : Word32
  c : Word32
  d : Word32
deriving DecidableEq, Repr

/-- Rule R170: the five 32-bit words of SHA-1. -/
structure Sha1Words where
  a : Word32
  b : Word32
  c : Word32
  d : Word32
  e : Word32
deriving DecidableEq, Repr

/-- Rules R190 and R210: the eight words of SHA-256 (`w = 32`) and SHA-512 (`w = 64`). -/
structure Sha2Words (w : Nat) where
  a : BitVec w
  b : BitVec w
  c : BitVec w
  d : BitVec w
  e : BitVec w
  f : BitVec w
  g : BitVec w
  h : BitVec w
deriving DecidableEq, Repr

/-- Rules R20 and R22: ALG together with the words H it selects.  ALG is the constructor
(`algOf`), and "no storage exists for words beyond N". -/
inductive HashState
  | md5 (h : Md5Words)
  | sha1 (h : Sha1Words)
  | sha256 (h : Sha2Words 32)
  | sha512 (h : Sha2Words 64)
deriving DecidableEq, Repr

/-- Rule R20: the elements of an instance that hold a value once INIT has run. -/
structure Engine where
  /-- ALG and H[0..N-1] (rules R22, R23). -/
  h : HashState
  /-- BUF, the pending buffer; shorter than a block (rule R24, `Engine.wf`). -/
  buf : Bytes
  /-- BLOCKS, the blocks-processed counter, an unbounded natural number (rules R7(a), R25). -/
  blocks : Nat
deriving DecidableEq, Repr

/-! ## The command port, rules R27 and R60 -/

/-- Rule R27: the port registers CMD and PAYLOAD, which exist for the length of one command. -/
structure Request where
  cmd : Word32
  payload : Bytes
deriving DecidableEq, Repr

/-- Rule R27: the port registers STATUS and DATA as the host has read them, and the instance whose
command they answer (rule R264: the response belongs to the command the host issued). -/
structure Response where
  inst : Nat
  status : Status
  data : Bytes
deriving DecidableEq, Repr

/-- Rule R33: what one instance of the block holds. -/
structure Instance where
  /-- VALID = 1 and the elements it guards, or VALID = 0 and no value (rules R20, R21, R32). -/
  engine : Option Engine
  /-- The command in progress: its CMD and PAYLOAD, or none between commands (rule R27). -/
  port : Option Request
deriving DecidableEq, Repr

/-- Rules R32 and R290: an instance after reset: VALID = 0 and no port register. -/
def Instance.reset : Instance := { engine := none, port := none }

/-! ## The host, rule R296 -/

/-- Rule R296: what the host can do.  `present` sends CMD and PAYLOAD to an instance; `await` waits for
the response of the instance's command, which the block performs and answers (log entry 3: DESIGN CHOICE,
unsafe for a claim that rests on it);
`reset` is the reset event of the block's environment (rule R290). -/
inductive HostAction
  | present (inst : Nat) (cmd : Word32) (payload : Bytes)
  | await (inst : Nat)
  | reset
deriving DecidableEq, Repr

/-- The whole machine: the block's instances, and the host that drives them. -/
structure State where
  /-- The host's list of actions (rule R28). -/
  script : List HostAction
  /-- Rule R28: the index of the host's next action in its list. -/
  pc : Nat
  /-- The model's own field (log entry 3: DESIGN CHOICE, safe): the instance whose command `exec` performs. -/
  active : Nat
  /-- The instances that differ from `Instance.reset`, by rising instance number; every instance not
  listed is as after reset (log entry 4: DESIGN CHOICE, safe). -/
  instances : List (Nat × Instance)
  /-- Rule R298: the responses returned to the host so far, oldest first; the host's own, which the reset
  event leaves alone (log entry 6: DESIGN CHOICE, safe). -/
  responses : List Response
deriving DecidableEq, Repr

/-- Rules R32, R290 and R291: the machine after reset.  Every instance is as after reset and waits for its
first command; the host's list is empty until a host supplies one (log entry 5: DESIGN CHOICE, safe). -/
def State.reset : State :=
  { script := [], pc := 0, active := 0, instances := [], responses := [] }

/-! ## Stops -/

/-- Rules R260 and R266: the block has no trap and no fault; every error is a STATUS in the response to
the command that caused it.  So no step ends in a fault: the type has no constructor (log entry 10:
DEDUCED, safe). -/
inductive Fault
deriving DecidableEq, Repr

/-- Why the model gives a step no meaning. -/
inductive Refusal
  /-- Raised by `exec` for an instruction that has no meaning yet; no arm raises it now. Safe. -/
  | notModelled (mnemonic : String)
  /-- Raised by `State.accept`: the host presents a command to an instance before the response to its
  previous command has been returned.  Rule R50: "a run in which the host breaks this duty has no
  meaning in this spec, and a model refuses it".  Safe for a host that keeps rule R295. -/
  | overlappingCommand (inst : Nat)
  /-- Raised by `State.accept`: the host addresses an instance number outside the platform's
  NUM_INSTANCES (spec/92_eei_decisions.md D29; log entry 4: DESIGN CHOICE).  Safe. -/
  | noSuchInstance (inst : Nat)
  /-- Raised by a meaning when the active instance's port holds no command, so that there is no
  PAYLOAD to read (rule R27; log entry 2: DESIGN CHOICE).  `step` calls `exec` only where a command is in
  progress.  Safe. -/
  | noCommandInProgress (inst : Nat)
deriving DecidableEq, Repr

/-- The outcome of one step of this machine. -/
abbrev Outcome := Host.Outcome State Fault Refusal

end Sys2Proof.Machine
end

