-- ==== Sys2Proof/Machine/Params.lean ====
section
/-! DEFINITION. The parameters of the four algorithms (spec/00_scope.md rules R6 and R12).  These values, the
constant tables of the compression functions and the other content that the spec marks as general
knowledge or as its own decision are taken as the spec states them (log entry 7: PRESUMED). -/

namespace Sys2Proof.Machine

/-- Rule R6: W, the word width in bits. -/
def wordBits : Alg → Nat
  | .md5 => 32
  | .sha1 => 32
  | .sha256 => 32
  | .sha512 => 64

/-- Rule R6: N, the number of words of state (spec/90_conflicts.md C1). -/
def stateWords : Alg → Nat
  | .md5 => 4
  | .sha1 => 5
  | .sha256 => 8
  | .sha512 => 8

/-- Rule R6: B, the block size in bytes. -/
def blockSize : Alg → Nat
  | .md5 => 64
  | .sha1 => 64
  | .sha256 => 64
  | .sha512 => 128

/-- Rule R6: L, the size of the length field in bytes. -/
def lengthSize : Alg → Nat
  | .md5 => 8
  | .sha1 => 8
  | .sha256 => 8
  | .sha512 => 16

/-- Rules R6, R43 and R122: LE, the byte order of message words, length field, digest and state words. -/
def byteOrder : Alg → Endian
  | .md5 => .little
  | .sha1 => .big
  | .sha256 => .big
  | .sha512 => .big

/-- Rule R6: R, the number of steps per block (spec/90_conflicts.md C2). -/
def stepCount : Alg → Nat
  | .md5 => 64
  | .sha1 => 80
  | .sha256 => 64
  | .sha512 => 80

/-- Rule R6: D, the digest size in bytes. -/
def digestSize : Alg → Nat
  | .md5 => 16
  | .sha1 => 20
  | .sha256 => 32
  | .sha512 => 64

/-- Rule R70: S = N * W / 8, the size of a chaining value in bytes. -/
def stateSize (alg : Alg) : Nat := stateWords alg * wordBits alg / 8

/-- Rule R67: ws = 2^WS, the word size in bytes of a WS code. -/
def wordSize (wsc : Nat) : Nat := 2 ^ wsc

/-- Rule R65: W, the width in bits of a rotate command. -/
def rotBits : RotWidth → Nat
  | .w32 => 32
  | .w64 => 64

end Sys2Proof.Machine
end

