-- ==== Sys2Proof/Machine/Operands.lean ====
section
/-! DEFINITION. The operand forms of the commands: rotations and shift on words, words to bytes and back
(spec/40_utils.md rules R100 to R104), and the payload layouts (spec/30_encoding.md rules R68 to R70). -/

namespace Sys2Proof.Machine

/-! ## Byte sequences, rule R10 -/

/-- Rule R10: `0x00 × n`, the sequence of `n` zero bytes. -/
def zeroBytes (n : Nat) : Bytes := List.replicate n 0#8

/-- Rule R10: `s[a..b)`, the bytes `a` to `b - 1` of `s`. -/
def slice (s : Bytes) (a b : Nat) : Bytes := (s.drop a).take (b - a)

/-! ## Rotations and shift -/

/-- Rule R100: `rotl_W(x, n)` for any integer amount. -/
def rotl {w : Nat} (x : BitVec w) (n : Int) : BitVec w :=
  let r := (n % (w : Int)).toNat
  if r = 0 then x else (x <<< r) ||| (x >>> (w - r))

/-- Rule R101: `rotr_W(x, n) = rotl_W(x, (-n) mod W)`. -/
def rotr {w : Nat} (x : BitVec w) (n : Int) : BitVec w := rotl x (-n % (w : Int))

/-- Rule R104: `shr_W(x, n)`, the logical right shift. -/
def shr {w : Nat} (x : BitVec w) (n : Nat) : BitVec w := x >>> n

/-! ## Words and bytes -/

/-- Rule R102: byte `i` of a word of `ws` bytes. -/
def packByte (ws : Nat) (order : Endian) (x i : Nat) : Byte :=
  match order with
  | .little => BitVec.ofNat 8 (x >>> (8 * i))
  | .big => BitVec.ofNat 8 (x >>> (8 * (ws - 1 - i)))

/-- Rule R102: one word as `ws` bytes. -/
def packWord (ws : Nat) (order : Endian) (x : Nat) : Bytes :=
  (List.range ws).map (packByte ws order x)

/-- Rule R102: `pack(ws, le, xs)`; each word is taken to be below `2^(8*ws)`, as every use
inside the block has it (log entry 9: DESIGN CHOICE, safe). -/
def pack (ws : Nat) (order : Endian) (xs : List Nat) : Bytes := xs.flatMap (packWord ws order)

/-- Rule R42: the value of a byte sequence read least significant byte first. -/
def leValue : Bytes → Nat
  | [] => 0
  | b :: bs => b.toNat + 2 ^ 8 * leValue bs

/-- Rule R42: the value of a byte sequence in a byte order. -/
def wordValue (order : Endian) (s : Bytes) : Nat :=
  match order with
  | .little => leValue s
  | .big => leValue s.reverse

/-- Rule R103: the words of a byte sequence whose length is a multiple of `ws`. -/
def unpackWords (ws : Nat) (order : Endian) (s : Bytes) : List Nat :=
  (List.range (s.length / ws)).map fun j => wordValue order (slice s (j * ws) (j * ws + ws))

/-- Rule R103: `unpack(ws, le, s)`, which fails with INVALID_INPUT. -/
def unpack (ws : Nat) (order : Endian) (s : Bytes) : Except Error (List Nat) :=
  if s.length % ws ≠ 0 then .error .invalidInput else .ok (unpackWords ws order s)

/-! ## Hash states as bytes, rules R70 and R237 -/

/-- Word `i` of a list of unpacked words, as a `w`-bit word; the 0 of a missing word is never reached (log
entry 9: DESIGN CHOICE, safe). -/
def wordAt (w : Nat) (xs : List Nat) (i : Nat) : BitVec w := BitVec.ofNat w (xs.getD i 0)

/-- The hash state of an algorithm whose words H[0..N-1] are given. -/
def hashStateOfWords (alg : Alg) (xs : List Nat) : HashState :=
  match alg with
  | .md5 => .md5 ⟨wordAt 32 xs 0, wordAt 32 xs 1, wordAt 32 xs 2, wordAt 32 xs 3⟩
  | .sha1 => .sha1 ⟨wordAt 32 xs 0, wordAt 32 xs 1, wordAt 32 xs 2, wordAt 32 xs 3, wordAt 32 xs 4⟩
  | .sha256 => .sha256 ⟨wordAt 32 xs 0, wordAt 32 xs 1, wordAt 32 xs 2, wordAt 32 xs 3,
      wordAt 32 xs 4, wordAt 32 xs 5, wordAt 32 xs 6, wordAt 32 xs 7⟩
  | .sha512 => .sha512 ⟨wordAt 64 xs 0, wordAt 64 xs 1, wordAt 64 xs 2, wordAt 64 xs 3,
      wordAt 64 xs 4, wordAt 64 xs 5, wordAt 64 xs 6, wordAt 64 xs 7⟩

/-- The words H[0..N-1] of a hash state, in order. -/
def hashWords : HashState → List Nat
  | .md5 h => [h.a.toNat, h.b.toNat, h.c.toNat, h.d.toNat]
  | .sha1 h => [h.a.toNat, h.b.toNat, h.c.toNat, h.d.toNat, h.e.toNat]
  | .sha256 h => [h.a.toNat, h.b.toNat, h.c.toNat, h.d.toNat, h.e.toNat, h.f.toNat, h.g.toNat, h.h.toNat]
  | .sha512 h => [h.a.toNat, h.b.toNat, h.c.toNat, h.d.toNat, h.e.toNat, h.f.toNat, h.g.toNat, h.h.toNat]

/-- Rule R22: ALG, the algorithm of a hash state. -/
def algOf : HashState → Alg
  | .md5 _ => .md5
  | .sha1 _ => .sha1
  | .sha256 _ => .sha256
  | .sha512 _ => .sha512

/-- Rules R70 and R237: `pack(W/8, LE, H)`. -/
def hashBytes (h : HashState) : Bytes :=
  pack (wordBits (algOf h) / 8) (byteOrder (algOf h)) (hashWords h)

/-- Rule R70: `unpack(W/8, LE, s)` of the S bytes of an incoming state. -/
def hashStateOfBytes (alg : Alg) (s : Bytes) : HashState :=
  hashStateOfWords alg (unpackWords (wordBits alg / 8) (byteOrder alg) s)

/-! ## Payload layouts, rules R68 to R70

Each gives the command's operands, or PRECONDITION; the length is checked before the range (rule R263). -/

/-- Rule R68: a scalar result, 8 bytes big-endian. -/
def scalarBytes (x : Nat) : Bytes := pack 8 .big [x]

/-- Rules R68, R105 and R106: the word x of a rotate command, 8 bytes big-endian and below 2^W. -/
def rotateOperand (w : RotWidth) (p : Bytes) : Except Error Nat :=
  if p.length ≠ 8 then .error .precondition
  else if 2 ^ rotBits w ≤ wordValue .big p then .error .precondition
  else .ok (wordValue .big p)

/-- Rules R68 and R107: the words of PACK, 8 bytes big-endian each and below 2^(8*ws). -/
def packOperands (wsc : Nat) (p : Bytes) : Except Error (List Nat) :=
  if p.length % 8 ≠ 0 then .error .precondition
  else if (unpackWords 8 .big p).all (fun x => decide (x < 2 ^ (8 * wordSize wsc))) then
    .ok (unpackWords 8 .big p)
  else .error .precondition

/-- Rule R69: total_bytes of PAD, 16 bytes big-endian. -/
def padOperand (p : Bytes) : Except Error Nat :=
  if p.length ≠ 16 then .error .precondition else .ok (wordValue .big p)

/-- Rule R70: the incoming state and the block of a COMPRESS command. -/
def compressOperands (alg : Alg) (p : Bytes) : Except Error (HashState × Bytes) :=
  if p.length ≠ stateSize alg + blockSize alg then .error .precondition
  else .ok (hashStateOfBytes alg (slice p 0 (stateSize alg)),
    slice p (stateSize alg) (stateSize alg + blockSize alg))

/-- Rule R68: DIGEST and HEXDIGEST take an empty payload. -/
def noOperands (p : Bytes) : Except Error Unit :=
  if p.length ≠ 0 then .error .precondition else .ok ()

end Sys2Proof.Machine
end

