-- ==== Sys2Proof/Machine/Flags.lean ====
section
/-! DEFINITION. VALID, the only flag of the block (spec/10_state.md rules R21 and R29), and the status codes
(spec/60_exceptions.md rule R260).  There are no condition codes, and wraparound is not flagged. -/

namespace Sys2Proof.Machine

/-- Rules R20 and R21: the flag VALID of an instance. -/
def validFlag (x : Instance) : Bool := x.engine.isSome

/-- Rule R21: UPDATE, DIGEST and HEXDIGEST raise NOT_INITIALIZED when VALID = 0; otherwise they read the
elements VALID guards. -/
def requireValid (e : Option Engine) : Except Error Engine :=
  match e with
  | none => .error .notInitialized
  | some e => .ok e

/-- Rule R260: the code of each error. -/
def errorCode : Error → BitVec 8
  | .illegalCommand => 1#8
  | .invalidInput => 2#8
  | .notInitialized => 3#8
  | .precondition => 4#8

/-- Rules R27 and R260: the value of the STATUS register. -/
def statusCode : Status → BitVec 8
  | .ok => 0#8
  | .error e => errorCode e

end Sys2Proof.Machine
end

