-- ==== Sys2Proof/Machine/Ops.lean ====
section
/-! DEFINITION. The named operations of the machine: the instances by number, the transaction of a command
(spec/30_encoding.md rule R60), ending a command with a response or an error (rules R11, R261),
presenting a command (rules R50, R295), reset (rule R290), and what the machine does next. -/

namespace Sys2Proof.Machine

/-! ## The instances, rule R33

The list is the canonical form of a map from instance numbers to instances, whose every other entry is
`Instance.reset`: numbers strictly rising, no entry equal to `Instance.reset` (log entry 4: DESIGN CHOICE,
safe). -/

/-- The instance is as after reset. -/
def isReset (x : Instance) : Bool := x.engine.isNone && x.port.isNone

/-- The instance of a number. -/
def instanceAt : List (Nat × Instance) → Nat → Instance
  | [], _ => Instance.reset
  | (k, x) :: l, n => if n = k then x else instanceAt l n

/-- Puts an instance at its place in the rising order. -/
def insertInstance (n : Nat) (x : Instance) : List (Nat × Instance) → List (Nat × Instance)
  | [] => [(n, x)]
  | (k, y) :: l =>
    if n < k then (n, x) :: (k, y) :: l
    else if n = k then (n, x) :: l
    else (k, y) :: insertInstance n x l

/-- Writes an instance, keeping the canonical form: one that is as after reset is not listed. -/
def storeInstance (n : Nat) (x : Instance) (l : List (Nat × Instance)) : List (Nat × Instance) :=
  if isReset x then l.filter (fun e => decide (e.1 ≠ n)) else insertInstance n x l

/-- The lowest-numbered instance with a command in progress. -/
def firstBusy : List (Nat × Instance) → Option Nat
  | [] => none
  | (k, x) :: l => if x.port.isSome then some k else firstBusy l

/-- The instance of a number, in a state. -/
def State.inst (s : State) (n : Nat) : Instance := instanceAt s.instances n

/-- The engine of an instance: none while its VALID = 0. -/
def State.engine (s : State) (n : Nat) : Option Engine := (s.inst n).engine

/-- The command in progress on an instance. -/
def State.port (s : State) (n : Nat) : Option Request := (s.inst n).port

/-- Writes one instance. -/
def State.setInst (s : State) (n : Nat) (x : Instance) : State :=
  { s with instances := storeInstance n x s.instances }

/-! ## The end of a command, rules R60 and R261 -/

/-- Rules R27 and R60: the active instance's command ends: its port registers are gone, its engine is `e`,
and the host has the response. -/
def State.complete (s : State) (e : Option Engine) (status : Status) (data : Bytes) : State :=
  { s.setInst s.active { engine := e, port := none } with
    responses := s.responses ++ [{ inst := s.active, status := status, data := data }] }

/-- Rule R11: `respond(data)` of a command that writes no instance state. -/
def State.respond (s : State) (data : Bytes) : State := s.complete (s.engine s.active) .ok data

/-- Rules R11 and R261: `raise <Status>()`: empty DATA, and the instance state as before the command. -/
def State.raise (s : State) (e : Error) : State := s.complete (s.engine s.active) (.error e) []

/-! ## The transaction of a command -/

/-- Rule R60: performs the command in progress on the active instance; with none there is no PAYLOAD, and it
refuses by name (log entry 2: DESIGN CHOICE, safe).  `f` reads the engine and PAYLOAD;
it raises an error, or gives the engine after the command and DATA. -/
def State.perform (s : State) (f : Option Engine → Bytes → Except Error (Option Engine × Bytes)) : Outcome :=
  match s.port s.active with
  | none => .refused (.noCommandInProgress s.active)
  | some r =>
    match f (s.engine s.active) r.payload with
    | .error e => .next (s.raise e)
    | .ok (e, data) => .next (s.complete e .ok data)

/-- Rule R230: a pure command reads nothing but its command word and payload, and writes no instance state. -/
def State.performPure (s : State) (f : Bytes → Except Error Bytes) : Outcome :=
  s.perform fun e p => (f p).map fun data => (e, data)

/-- Rules R234 and R235: a command that reads an initialised engine and writes nothing. -/
def State.performRead (s : State) (f : Engine → Bytes → Except Error Bytes) : Outcome :=
  s.perform fun e p => (requireValid e).bind fun v => (f v p).map fun data => (e, data)

/-- Rules R232 and R233: a command that leaves the engine it computes, with empty DATA. -/
def State.performWrite (s : State) (f : Option Engine → Bytes → Except Error Engine) : Outcome :=
  s.perform fun e p => (f e p).map fun v => (some v, [])

/-! ## The host's actions, rules R290, R295 and R296 -/

/-- Rule R28: the host's next action is the one after this; past the end of its list it stays. -/
def State.advance (s : State) : State :=
  { s with pc := if s.pc < s.script.length then s.pc + 1 else s.pc }

/-- Selects the instance whose command is performed. -/
def State.select (s : State) (n : Nat) : State := { s with active := n }

/-- Rules R50, R60 and R295: the host presents a command.  The block has no meaning for one presented
before the instance's previous response, nor for an instance the platform does not have. -/
def State.accept (s : State) (n : Nat) (r : Request) : Outcome :=
  if Config.numInstances ≤ n then .refused (.noSuchInstance n)
  else match s.port n with
    | some _ => .refused (.overlappingCommand n)
    | none => .next (s.advance.setInst n { engine := s.engine n, port := some r })

/-- Rule R290: the reset event.  Every instance is as after reset; commands in progress are abandoned and
their responses not delivered; the responses already delivered stay the host's (log entry 6: DESIGN
CHOICE, safe). -/
def State.resetBlock (s : State) : State := { s with active := 0, instances := [] }

/-- What one step of the machine is. -/
inductive Move
  | accept (inst : Nat) (r : Request)
  | perform (inst : Nat)
  | reset
  | idle
deriving DecidableEq, Repr

/-- Rules R28, R291, R297: the host's next action; past the end of its list the block still performs the
commands in progress, the lowest-numbered instance first (log entry 3: DESIGN CHOICE, unsafe for a claim
that rests on that order), and then waits. -/
def State.nextMove (s : State) : Move :=
  match s.script[s.pc]? with
  | some (.present n cmd payload) => .accept n { cmd := cmd, payload := payload }
  | some (.await n) => .perform n
  | some .reset => .reset
  | none =>
    match firstBusy s.instances with
    | some n => .perform n
    | none => .idle

end Sys2Proof.Machine
end

