-- ==== Sys2Proof/Machine/Md5.lean ====
section
/-! DEFINITION. The MD5 compression function (spec/42_md5.md). -/

namespace Sys2Proof.Machine

/-! ## Constants, rules R141 and R144 -/

/-- Rule R141: the initial value. -/
def md5Iv : Md5Words := ⟨0x67452301#32, 0xEFCDAB89#32, 0x98BADCFE#32, 0x10325476#32⟩

/-- Rule R143: which mixing function a step uses. -/
inductive Md5Fn
  | f
  | g
  | h
  | i
deriving DecidableEq, Repr

/-- Rule R144: one row of the step table. -/
structure Md5Row where
  /-- The mixing function. -/
  fn : Md5Fn
  /-- k, the message word index. -/
  k : Nat
  /-- s, the rotate amount. -/
  s : Nat
  /-- T[i]. -/
  t : Word32
deriving DecidableEq, Repr

/-- Rule R144, the rows of round 1 (steps 0 to 15). -/
def md5Round1 : List Md5Row :=
  [ ⟨.f, 0, 7, 0xD76AA478#32⟩,
    ⟨.f, 1, 12, 0xE8C7B756#32⟩,
    ⟨.f, 2, 17, 0x242070DB#32⟩,
    ⟨.f, 3, 22, 0xC1BDCEEE#32⟩,
    ⟨.f, 4, 7, 0xF57C0FAF#32⟩,
    ⟨.f, 5, 12, 0x4787C62A#32⟩,
    ⟨.f, 6, 17, 0xA8304613#32⟩,
    ⟨.f, 7, 22, 0xFD469501#32⟩,
    ⟨.f, 8, 7, 0x698098D8#32⟩,
    ⟨.f, 9, 12, 0x8B44F7AF#32⟩,
    ⟨.f, 10, 17, 0xFFFF5BB1#32⟩,
    ⟨.f, 11, 22, 0x895CD7BE#32⟩,
    ⟨.f, 12, 7, 0x6B901122#32⟩,
    ⟨.f, 13, 12, 0xFD987193#32⟩,
    ⟨.f, 14, 17, 0xA679438E#32⟩,
    ⟨.f, 15, 22, 0x49B40821#32⟩ ]

/-- Rule R144, the rows of round 2 (steps 16 to 31). -/
def md5Round2 : List Md5Row :=
  [ ⟨.g, 1, 5, 0xF61E2562#32⟩,
    ⟨.g, 6, 9, 0xC040B340#32⟩,
    ⟨.g, 11, 14, 0x265E5A51#32⟩,
    ⟨.g, 0, 20, 0xE9B6C7AA#32⟩,
    ⟨.g, 5, 5, 0xD62F105D#32⟩,
    ⟨.g, 10, 9, 0x02441453#32⟩,
    ⟨.g, 15, 14, 0xD8A1E681#32⟩,
    ⟨.g, 4, 20, 0xE7D3FBC8#32⟩,
    ⟨.g, 9, 5, 0x21E1CDE6#32⟩,
    ⟨.g, 14, 9, 0xC33707D6#32⟩,
    ⟨.g, 3, 14, 0xF4D50D87#32⟩,
    ⟨.g, 8, 20, 0x455A14ED#32⟩,
    ⟨.g, 13, 5, 0xA9E3E905#32⟩,
    ⟨.g, 2, 9, 0xFCEFA3F8#32⟩,
    ⟨.g, 7, 14, 0x676F02D9#32⟩,
    ⟨.g, 12, 20, 0x8D2A4C8A#32⟩ ]

/-- Rule R144, the rows of round 3 (steps 32 to 47). -/
def md5Round3 : List Md5Row :=
  [ ⟨.h, 5, 4, 0xFFFA3942#32⟩,
    ⟨.h, 8, 11, 0x8771F681#32⟩,
    ⟨.h, 11, 16, 0x6D9D6122#32⟩,
    ⟨.h, 14, 23, 0xFDE5380C#32⟩,
    ⟨.h, 1, 4, 0xA4BEEA44#32⟩,
    ⟨.h, 4, 11, 0x4BDECFA9#32⟩,
    ⟨.h, 7, 16, 0xF6BB4B60#32⟩,
    ⟨.h, 10, 23, 0xBEBFBC70#32⟩,
    ⟨.h, 13, 4, 0x289B7EC6#32⟩,
    ⟨.h, 0, 11, 0xEAA127FA#32⟩,
    ⟨.h, 3, 16, 0xD4EF3085#32⟩,
    ⟨.h, 6, 23, 0x04881D05#32⟩,
    ⟨.h, 9, 4, 0xD9D4D039#32⟩,
    ⟨.h, 12, 11, 0xE6DB99E5#32⟩,
    ⟨.h, 15, 16, 0x1FA27CF8#32⟩,
    ⟨.h, 2, 23, 0xC4AC5665#32⟩ ]

/-- Rule R144, the rows of round 4 (steps 48 to 63). -/
def md5Round4 : List Md5Row :=
  [ ⟨.i, 0, 6, 0xF4292244#32⟩,
    ⟨.i, 7, 10, 0x432AFF97#32⟩,
    ⟨.i, 14, 15, 0xAB9423A7#32⟩,
    ⟨.i, 5, 21, 0xFC93A039#32⟩,
    ⟨.i, 12, 6, 0x655B59C3#32⟩,
    ⟨.i, 3, 10, 0x8F0CCC92#32⟩,
    ⟨.i, 10, 15, 0xFFEFF47D#32⟩,
    ⟨.i, 1, 21, 0x85845DD1#32⟩,
    ⟨.i, 8, 6, 0x6FA87E4F#32⟩,
    ⟨.i, 15, 10, 0xFE2CE6E0#32⟩,
    ⟨.i, 6, 15, 0xA3014314#32⟩,
    ⟨.i, 13, 21, 0x4E0811A1#32⟩,
    ⟨.i, 4, 6, 0xF7537E82#32⟩,
    ⟨.i, 11, 10, 0xBD3AF235#32⟩,
    ⟨.i, 2, 15, 0x2AD7D2BB#32⟩,
    ⟨.i, 9, 21, 0xEB86D391#32⟩ ]

/-- Rule R144: the step table, 64 rows. -/
def md5Steps : List Md5Row := md5Round1 ++ md5Round2 ++ md5Round3 ++ md5Round4

/-! ## The compression function -/

/-- Rule R143: the mixing functions F, G, H and I. -/
def md5Mix (fn : Md5Fn) (x y z : Word32) : Word32 :=
  match fn with
  | .f => (x &&& y) ||| (~~~x &&& z)
  | .g => (x &&& z) ||| (y &&& ~~~z)
  | .h => x ^^^ y ^^^ z
  | .i => y ^^^ (x ||| ~~~z)

/-- Rule R142: the message words X[0..15]. -/
def md5Message (block : Bytes) : List Word32 :=
  (unpackWords 4 .little block).map (BitVec.ofNat 32)

/-- Rule R146: t of a step. -/
def md5Sum (X : List Word32) (v : Md5Words) (row : Md5Row) : Word32 :=
  v.a + md5Mix row.fn v.b v.c v.d + X.getD row.k 0#32 + row.t

/-- Rule R146: one step. -/
def md5Step (X : List Word32) (v : Md5Words) (row : Md5Row) : Md5Words :=
  { a := v.d, b := v.b + rotl (md5Sum X v row) row.s, c := v.b, d := v.c }

/-- Rule R147: the feed-forward. -/
def md5FeedForward (h v : Md5Words) : Md5Words :=
  { a := h.a + v.a, b := h.b + v.b, c := h.c + v.c, d := h.d + v.d }

/-- Rule R148: `md5_compress(h, block)`. -/
def md5Compress (h : Md5Words) (block : Bytes) : Md5Words :=
  md5FeedForward h (md5Steps.foldl (md5Step (md5Message block)) h)

end Sys2Proof.Machine
end

