-- ==== Sys2Proof/Machine/Sha1.lean ====
section
/-! DEFINITION. The SHA-1 compression function (spec/43_sha1.md), and the functions and the schedule
recursion it shares with SHA-256 and SHA-512 (rules R173, R193, R213). -/

namespace Sys2Proof.Machine

/-! ## Shared by the SHA functions -/

/-- Rules R173, R193 and R213: Ch. -/
def ch {w : Nat} (x y z : BitVec w) : BitVec w := (x &&& y) ^^^ (~~~x &&& z)

/-- Rules R173, R193 and R213: Maj. -/
def maj {w : Nat} (x y z : BitVec w) : BitVec w := (x &&& y) ^^^ (x &&& z) ^^^ (y &&& z)

/-- Rules R174, R194 and R214: M[0..15], the big-endian message words of `w` bits. -/
def shaMessage (w : Nat) (block : Bytes) : List (BitVec w) :=
  (unpackWords (w / 8) .big block).map (BitVec.ofNat w)

/-- W[t - n] of a schedule whose next word is W[t]. -/
def wordBack {w : Nat} (ws : List (BitVec w)) (n : Nat) : BitVec w := ws.getD (ws.length - n) 0#w

/-- Rules R174, R194 and R214: `n` more words of a schedule, each computed from the words before it. -/
def expandSchedule {w : Nat} (next : List (BitVec w) → BitVec w) :
    Nat → List (BitVec w) → List (BitVec w)
  | 0, ws => ws
  | n + 1, ws => expandSchedule next n (ws ++ [next ws])

/-! ## SHA-1 -/

/-- Rule R171: the initial value. -/
def sha1Iv : Sha1Words := ⟨0x67452301#32, 0xEFCDAB89#32, 0x98BADCFE#32, 0x10325476#32, 0xC3D2E1F0#32⟩

/-- Rule R172: K_t. -/
def sha1K (t : Nat) : Word32 :=
  if t < 20 then 0x5A827999#32
  else if t < 40 then 0x6ED9EBA1#32
  else if t < 60 then 0x8F1BBCDC#32
  else 0xCA62C1D6#32

/-- Rule R173: Parity. -/
def parity (x y z : Word32) : Word32 := x ^^^ y ^^^ z

/-- Rule R173: f_t. -/
def sha1Mix (t : Nat) (x y z : Word32) : Word32 :=
  if t < 20 then ch x y z
  else if t < 40 then parity x y z
  else if t < 60 then maj x y z
  else parity x y z

/-- Rule R174: W[t] for t ≥ 16. -/
def sha1Next (ws : List Word32) : Word32 :=
  rotl (wordBack ws 3 ^^^ wordBack ws 8 ^^^ wordBack ws 14 ^^^ wordBack ws 16) 1

/-- Rule R174: the schedule W[0..79]. -/
def sha1Schedule (block : Bytes) : List Word32 := expandSchedule sha1Next 64 (shaMessage 32 block)

/-- Rule R175: T of step t. -/
def sha1Sum (W : List Word32) (v : Sha1Words) (t : Nat) : Word32 :=
  rotl v.a 5 + sha1Mix t v.b v.c v.d + v.e + sha1K t + W.getD t 0#32

/-- Rule R175: one step. -/
def sha1Step (W : List Word32) (v : Sha1Words) (t : Nat) : Sha1Words :=
  { a := sha1Sum W v t, b := v.a, c := rotl v.b 30, d := v.c, e := v.d }

/-- Rule R176: the feed-forward. -/
def sha1FeedForward (h v : Sha1Words) : Sha1Words :=
  { a := h.a + v.a, b := h.b + v.b, c := h.c + v.c, d := h.d + v.d, e := h.e + v.e }

/-- Rule R177: `sha1_compress(h, block)`. -/
def sha1Compress (h : Sha1Words) (block : Bytes) : Sha1Words :=
  sha1FeedForward h ((List.range (stepCount .sha1)).foldl (sha1Step (sha1Schedule block)) h)

end Sys2Proof.Machine
end

