-- ==== Sys2Proof/Machine/Sha2.lean ====
section
/-! DEFINITION. The SHA-256 and SHA-512 compression functions (spec/44_sha256.md, spec/45_sha512.md).
SHA-512 reuses SHA-256's structure at 64-bit width; the constants and the rotation amounts differ. -/

namespace Sys2Proof.Machine

/-! ## The shared structure -/

/-- Rules R194 and R214: W[t] for t ≥ 16, from the functions σ0 and σ1. -/
def sha2Next {w : Nat} (sig0 sig1 : BitVec w → BitVec w) (ws : List (BitVec w)) : BitVec w :=
  sig1 (wordBack ws 2) + wordBack ws 7 + sig0 (wordBack ws 15) + wordBack ws 16

/-- Rules R195 and R215: T1 of a step whose constant and schedule word add to `kw`. -/
def sha2T1 {w : Nat} (sum1 : BitVec w → BitVec w) (v : Sha2Words w) (kw : BitVec w) : BitVec w :=
  v.h + sum1 v.e + ch v.e v.f v.g + kw

/-- Rules R195 and R215: T2 of a step. -/
def sha2T2 {w : Nat} (sum0 : BitVec w → BitVec w) (v : Sha2Words w) : BitVec w :=
  sum0 v.a + maj v.a v.b v.c

/-- Rules R195 and R215: one step. -/
def sha2Step {w : Nat} (sum0 sum1 : BitVec w → BitVec w) (v : Sha2Words w) (kw : BitVec w) : Sha2Words w :=
  { a := sha2T1 sum1 v kw + sha2T2 sum0 v, b := v.a, c := v.b, d := v.c,
    e := v.d + sha2T1 sum1 v kw, f := v.e, g := v.f, h := v.g }

/-- Rules R196 and R216: the feed-forward. -/
def sha2FeedForward {w : Nat} (h v : Sha2Words w) : Sha2Words w :=
  { a := h.a + v.a, b := h.b + v.b, c := h.c + v.c, d := h.d + v.d,
    e := h.e + v.e, f := h.f + v.f, g := h.g + v.g, h := h.h + v.h }

/-! ## SHA-256 -/

/-- Rule R191: the initial value. -/
def sha256Iv : Sha2Words 32 :=
  ⟨0x6A09E667#32, 0xBB67AE85#32, 0x3C6EF372#32, 0xA54FF53A#32,
   0x510E527F#32, 0x9B05688C#32, 0x1F83D9AB#32, 0x5BE0CD19#32⟩

/-- Rule R192, entries 0 to 15. -/
def k256Part1 : List (BitVec 32) :=
  [ 0x428A2F98#32, 0x71374491#32, 0xB5C0FBCF#32, 0xE9B5DBA5#32,
    0x3956C25B#32, 0x59F111F1#32, 0x923F82A4#32, 0xAB1C5ED5#32,
    0xD807AA98#32, 0x12835B01#32, 0x243185BE#32, 0x550C7DC3#32,
    0x72BE5D74#32, 0x80DEB1FE#32, 0x9BDC06A7#32, 0xC19BF174#32 ]

/-- Rule R192, entries 16 to 31. -/
def k256Part2 : List (BitVec 32) :=
  [ 0xE49B69C1#32, 0xEFBE4786#32, 0x0FC19DC6#32, 0x240CA1CC#32,
    0x2DE92C6F#32, 0x4A7484AA#32, 0x5CB0A9DC#32, 0x76F988DA#32,
    0x983E5152#32, 0xA831C66D#32, 0xB00327C8#32, 0xBF597FC7#32,
    0xC6E00BF3#32, 0xD5A79147#32, 0x06CA6351#32, 0x14292967#32 ]

/-- Rule R192, entries 32 to 47. -/
def k256Part3 : List (BitVec 32) :=
  [ 0x27B70A85#32, 0x2E1B2138#32, 0x4D2C6DFC#32, 0x53380D13#32,
    0x650A7354#32, 0x766A0ABB#32, 0x81C2C92E#32, 0x92722C85#32,
    0xA2BFE8A1#32, 0xA81A664B#32, 0xC24B8B70#32, 0xC76C51A3#32,
    0xD192E819#32, 0xD6990624#32, 0xF40E3585#32, 0x106AA070#32 ]

/-- Rule R192, entries 48 to 63. -/
def k256Part4 : List (BitVec 32) :=
  [ 0x19A4C116#32, 0x1E376C08#32, 0x2748774C#32, 0x34B0BCB5#32,
    0x391C0CB3#32, 0x4ED8AA4A#32, 0x5B9CCA4F#32, 0x682E6FF3#32,
    0x748F82EE#32, 0x78A5636F#32, 0x84C87814#32, 0x8CC70208#32,
    0x90BEFFFA#32, 0xA4506CEB#32, 0xBEF9A3F7#32, 0xC67178F2#32 ]

/-- Rule R192: the 64 round constants. -/
def k256 : List (BitVec 32) :=
  k256Part1 ++ k256Part2 ++ k256Part3 ++ k256Part4

/-- Rule R193: Σ0. -/
def sha256Sum0 (x : Word32) : Word32 := rotr x 2 ^^^ rotr x 13 ^^^ rotr x 22

/-- Rule R193: Σ1. -/
def sha256Sum1 (x : Word32) : Word32 := rotr x 6 ^^^ rotr x 11 ^^^ rotr x 25

/-- Rule R193: σ0. -/
def sha256Sig0 (x : Word32) : Word32 := rotr x 7 ^^^ rotr x 18 ^^^ shr x 3

/-- Rule R193: σ1. -/
def sha256Sig1 (x : Word32) : Word32 := rotr x 17 ^^^ rotr x 19 ^^^ shr x 10

/-- Rule R194: the schedule W[0..63]. -/
def sha256Schedule (block : Bytes) : List Word32 :=
  expandSchedule (sha2Next sha256Sig0 sha256Sig1) 48 (shaMessage 32 block)

/-- Rule R195: step t. -/
def sha256Step (W : List Word32) (v : Sha2Words 32) (t : Nat) : Sha2Words 32 :=
  sha2Step sha256Sum0 sha256Sum1 v (k256.getD t 0#32 + W.getD t 0#32)

/-- Rule R197: `sha256_compress(h, block)`. -/
def sha256Compress (h : Sha2Words 32) (block : Bytes) : Sha2Words 32 :=
  sha2FeedForward h ((List.range (stepCount .sha256)).foldl (sha256Step (sha256Schedule block)) h)

/-! ## SHA-512 -/

/-- Rule R211: the initial value. -/
def sha512Iv : Sha2Words 64 :=
  ⟨0x6A09E667F3BCC908#64, 0xBB67AE8584CAA73B#64, 0x3C6EF372FE94F82B#64, 0xA54FF53A5F1D36F1#64,
   0x510E527FADE682D1#64, 0x9B05688C2B3E6C1F#64, 0x1F83D9ABFB41BD6B#64, 0x5BE0CD19137E2179#64⟩

/-- Rule R212, entries 0 to 15. -/
def k512Part1 : List (BitVec 64) :=
  [ 0x428A2F98D728AE22#64, 0x7137449123EF65CD#64, 0xB5C0FBCFEC4D3B2F#64, 0xE9B5DBA58189DBBC#64,
    0x3956C25BF348B538#64, 0x59F111F1B605D019#64, 0x923F82A4AF194F9B#64, 0xAB1C5ED5DA6D8118#64,
    0xD807AA98A3030242#64, 0x12835B0145706FBE#64, 0x243185BE4EE4B28C#64, 0x550C7DC3D5FFB4E2#64,
    0x72BE5D74F27B896F#64, 0x80DEB1FE3B1696B1#64, 0x9BDC06A725C71235#64, 0xC19BF174CF692694#64 ]

/-- Rule R212, entries 16 to 31. -/
def k512Part2 : List (BitVec 64) :=
  [ 0xE49B69C19EF14AD2#64, 0xEFBE4786384F25E3#64, 0x0FC19DC68B8CD5B5#64, 0x240CA1CC77AC9C65#64,
    0x2DE92C6F592B0275#64, 0x4A7484AA6EA6E483#64, 0x5CB0A9DCBD41FBD4#64, 0x76F988DA831153B5#64,
    0x983E5152EE66DFAB#64, 0xA831C66D2DB43210#64, 0xB00327C898FB213F#64, 0xBF597FC7BEEF0EE4#64,
    0xC6E00BF33DA88FC2#64, 0xD5A79147930AA725#64, 0x06CA6351E003826F#64, 0x142929670A0E6E70#64 ]

/-- Rule R212, entries 32 to 47. -/
def k512Part3 : List (BitVec 64) :=
  [ 0x27B70A8546D22FFC#64, 0x2E1B21385C26C926#64, 0x4D2C6DFC5AC42AED#64, 0x53380D139D95B3DF#64,
    0x650A73548BAF63DE#64, 0x766A0ABB3C77B2A8#64, 0x81C2C92E47EDAEE6#64, 0x92722C851482353B#64,
    0xA2BFE8A14CF10364#64, 0xA81A664BBC423001#64, 0xC24B8B70D0F89791#64, 0xC76C51A30654BE30#64,
    0xD192E819D6EF5218#64, 0xD69906245565A910#64, 0xF40E35855771202A#64, 0x106AA07032BBD1B8#64 ]

/-- Rule R212, entries 48 to 63. -/
def k512Part4 : List (BitVec 64) :=
  [ 0x19A4C116B8D2D0C8#64, 0x1E376C085141AB53#64, 0x2748774CDF8EEB99#64, 0x34B0BCB5E19B48A8#64,
    0x391C0CB3C5C95A63#64, 0x4ED8AA4AE3418ACB#64, 0x5B9CCA4F7763E373#64, 0x682E6FF3D6B2B8A3#64,
    0x748F82EE5DEFB2FC#64, 0x78A5636F43172F60#64, 0x84C87814A1F0AB72#64, 0x8CC702081A6439EC#64,
    0x90BEFFFA23631E28#64, 0xA4506CEBDE82BDE9#64, 0xBEF9A3F7B2C67915#64, 0xC67178F2E372532B#64 ]

/-- Rule R212, entries 64 to 79. -/
def k512Part5 : List (BitVec 64) :=
  [ 0xCA273ECEEA26619C#64, 0xD186B8C721C0C207#64, 0xEADA7DD6CDE0EB1E#64, 0xF57D4F7FEE6ED178#64,
    0x06F067AA72176FBA#64, 0x0A637DC5A2C898A6#64, 0x113F9804BEF90DAE#64, 0x1B710B35131C471B#64,
    0x28DB77F523047D84#64, 0x32CAAB7B40C72493#64, 0x3C9EBE0A15C9BEBC#64, 0x431D67C49C100D4C#64,
    0x4CC5D4BECB3E42B6#64, 0x597F299CFC657E2A#64, 0x5FCB6FAB3AD6FAEC#64, 0x6C44198C4A475817#64 ]

/-- Rule R212: the 80 round constants. -/
def k512 : List (BitVec 64) :=
  k512Part1 ++ k512Part2 ++ k512Part3 ++ k512Part4 ++ k512Part5

/-- Rule R213: Σ0. -/
def sha512Sum0 (x : Word64) : Word64 := rotr x 28 ^^^ rotr x 34 ^^^ rotr x 39

/-- Rule R213: Σ1. -/
def sha512Sum1 (x : Word64) : Word64 := rotr x 14 ^^^ rotr x 18 ^^^ rotr x 41

/-- Rule R213: σ0. -/
def sha512Sig0 (x : Word64) : Word64 := rotr x 1 ^^^ rotr x 8 ^^^ shr x 7

/-- Rule R213: σ1. -/
def sha512Sig1 (x : Word64) : Word64 := rotr x 19 ^^^ rotr x 61 ^^^ shr x 6

/-- Rule R214: the schedule W[0..79]. -/
def sha512Schedule (block : Bytes) : List Word64 :=
  expandSchedule (sha2Next sha512Sig0 sha512Sig1) 64 (shaMessage 64 block)

/-- Rule R215: step t. -/
def sha512Step (W : List Word64) (v : Sha2Words 64) (t : Nat) : Sha2Words 64 :=
  sha2Step sha512Sum0 sha512Sum1 v (k512.getD t 0#64 + W.getD t 0#64)

/-- Rule R217: `sha512_compress(h, block)`. -/
def sha512Compress (h : Sha2Words 64) (block : Bytes) : Sha2Words 64 :=
  sha2FeedForward h ((List.range (stepCount .sha512)).foldl (sha512Step (sha512Schedule block)) h)

end Sys2Proof.Machine
end

