-- ==== Sys2Proof/Machine/Compress.lean ====
section
/-! DEFINITION. The four compression functions by algorithm (spec/46_engine.md rule R231), and the COMPRESS
commands (rules R70, R149, R178, R198, R218). -/

namespace Sys2Proof.Machine

/-- Rule R231: IV(ALG). -/
def ivOf : Alg → HashState
  | .md5 => .md5 md5Iv
  | .sha1 => .sha1 sha1Iv
  | .sha256 => .sha256 sha256Iv
  | .sha512 => .sha512 sha512Iv

/-- Rule R231: compress_ALG, a pure function of the state and one block (rule R148). -/
def compress (h : HashState) (block : Bytes) : HashState :=
  match h with
  | .md5 h => .md5 (md5Compress h block)
  | .sha1 h => .sha1 (sha1Compress h block)
  | .sha256 h => .sha256 (sha256Compress h block)
  | .sha512 h => .sha512 (sha512Compress h block)

/-- Rule R70: the DATA of a COMPRESS command, the new state in the digest's format. -/
def compressData (alg : Alg) (p : Bytes) : Except Error Bytes :=
  (compressOperands alg p).map fun operands => hashBytes (compress operands.1 operands.2)

/-- Rule R149: COMPRESS.MD5. -/
def execCompressMd5 (s : State) : Outcome := s.performPure (compressData .md5)

/-- Rule R178: COMPRESS.SHA1. -/
def execCompressSha1 (s : State) : Outcome := s.performPure (compressData .sha1)

/-- Rule R198: COMPRESS.SHA256. -/
def execCompressSha256 (s : State) : Outcome := s.performPure (compressData .sha256)

/-- Rule R218: COMPRESS.SHA512. -/
def execCompressSha512 (s : State) : Outcome := s.performPure (compressData .sha512)

end Sys2Proof.Machine
end

