-- ==== Sys2Proof/Machine/Padding.lean ====
section
/-! DEFINITION. The padding generator (spec/41_padding.md): the padding function and PAD. -/

namespace Sys2Proof.Machine

/-- Rule R120: z, the least number of zero bytes that makes the padded message whole blocks. -/
def padZeros (T B L : Nat) : Nat := (B - (T + 1 + L) % B) % B

/-- Rules R120 and R124: the bit length, wrapped to the length field without error. -/
def bitLength (T L : Nat) : Nat := 8 * T % 2 ^ (8 * L)

/-- Rule R120: `padding(T, B, L, le)`. -/
def padding (T B L : Nat) (order : Endian) : Bytes :=
  [0x80#8] ++ zeroBytes (padZeros T B L) ++ pack L order [bitLength T L]

/-- Rule R122: the padding of an algorithm for a message of `T` bytes. -/
def algPadding (alg : Alg) (T : Nat) : Bytes :=
  padding T (blockSize alg) (lengthSize alg) (byteOrder alg)

/-- Rule R125: the DATA of PAD. -/
def padData (alg : Alg) (p : Bytes) : Except Error Bytes :=
  (padOperand p).map fun T => algPadding alg T

/-- Rule R125: PAD, produce the padding for a message length. -/
def execPad (alg : Alg) (s : State) : Outcome := s.performPure (padData alg)

end Sys2Proof.Machine
end

