-- ==== Sys2Proof/Machine/Engine.lean ====
section
/-! DEFINITION. The incremental hash buffer engine (spec/46_engine.md): INIT, UPDATE, DIGEST, HEXDIGEST. -/

namespace Sys2Proof.Machine

/-! ## The engine's parameters, rules R12 and R230 -/

/-- Rule R22: ALG of a computation. -/
def Engine.alg (v : Engine) : Alg := algOf v.h

/-- Rule R12: B for the algorithm in force. -/
def Engine.blockBytes (v : Engine) : Nat := blockSize v.alg

/-- Rules R25 and R234: T, the total message bytes since the last INIT. -/
def Engine.totalBytes (v : Engine) : Nat := v.blocks * v.blockBytes + v.buf.length

/-! ## INIT and UPDATE -/

/-- Rule R232: the engine INIT sets up before it absorbs its payload. -/
def freshEngine (alg : Alg) : Engine := { h := ivOf alg, buf := [], blocks := 0 }

/-- Rule R233: one pass of update_body's loop: the first block of BUF is folded into H. -/
def Engine.foldBlock (v : Engine) : Engine :=
  { h := compress v.h (slice v.buf 0 v.blockBytes), buf := v.buf.drop v.blockBytes, blocks := v.blocks + 1 }

/-- Rule R233: `while len(BUF) >= B`, at most `fuel` passes. -/
def drain : Nat → Engine → Engine
  | 0, v => v
  | fuel + 1, v => if v.blockBytes ≤ v.buf.length then drain fuel v.foldBlock else v

/-- Rule R233: update_body(m).  Each pass removes B ≥ 1 bytes, so len(BUF) passes are enough. -/
def updateBody (v : Engine) (m : Bytes) : Engine :=
  drain (v.buf ++ m).length { v with buf := v.buf ++ m }

/-- Rule R232: INIT, construct a new hash computation; whatever the instance held is discarded. -/
def execInit (alg : Alg) (s : State) : Outcome :=
  s.performWrite fun _ m => .ok (updateBody (freshEngine alg) m)

/-- Rule R233: UPDATE, absorb bytes. -/
def execUpdate (s : State) : Outcome :=
  s.performWrite fun e m => (requireValid e).map fun v => updateBody v m

/-! ## DIGEST and HEXDIGEST -/

/-- Rule R234: BUF with the padding of the whole message. -/
def Engine.paddedTail (v : Engine) : Bytes := v.buf ++ algPadding v.alg v.totalBytes

/-- Rules R41 and R234: the whole blocks of a byte sequence folded into `h`, blocks 0 to len(t)/B - 1 in
order.  DIGEST folds its padded tail into a private copy of H (rule R31). -/
def foldBlocks (h : HashState) (B : Nat) (t : Bytes) : HashState :=
  (List.range (t.length / B)).foldl (fun h j => compress h (slice t (j * B) (j * B + B))) h

/-- Rules R234 and R237: digest_bytes(), D bytes. -/
def Engine.digestBytes (v : Engine) : Bytes :=
  hashBytes (foldBlocks v.h v.blockBytes v.paddedTail)

/-- Rule R236: the ASCII code of a hexadecimal digit. -/
def hexDigit (v : Nat) : Byte := if v < 10 then BitVec.ofNat 8 (0x30 + v) else BitVec.ofNat 8 (0x61 + (v - 10))

/-- Rule R236: the two ASCII bytes of one byte, high nibble first. -/
def hexByte (b : Byte) : Bytes := [hexDigit (b.toNat / 16), hexDigit (b.toNat % 16)]

/-- Rule R236: hex. -/
def hex (s : Bytes) : Bytes := s.flatMap hexByte

/-- Rule R234: the DATA of DIGEST. -/
def digestData (v : Engine) (p : Bytes) : Except Error Bytes := (noOperands p).map fun _ => v.digestBytes

/-- Rule R235: the DATA of HEXDIGEST. -/
def hexdigestData (v : Engine) (p : Bytes) : Except Error Bytes :=
  (noOperands p).map fun _ => hex v.digestBytes

/-- Rule R234: DIGEST, the digest of everything absorbed so far. -/
def execDigest (s : State) : Outcome := s.performRead digestData

/-- Rule R235: HEXDIGEST, the digest as lowercase hexadecimal text. -/
def execHexdigest (s : State) : Outcome := s.performRead hexdigestData

end Sys2Proof.Machine
end

