-- ==== Sys2Proof/Machine/Utils.lean ====
section
/-! DEFINITION. The word rotate and endian utilities (spec/40_utils.md): ROTL, ROTR, PACK, UNPACK. -/

namespace Sys2Proof.Machine

/-- Rule R105: the DATA of ROTL. -/
def rotlData (w : RotWidth) (amt : Nat) (p : Bytes) : Except Error Bytes :=
  (rotateOperand w p).map fun x => scalarBytes (rotl (BitVec.ofNat (rotBits w) x) amt).toNat

/-- Rule R106: the DATA of ROTR. -/
def rotrData (w : RotWidth) (amt : Nat) (p : Bytes) : Except Error Bytes :=
  (rotateOperand w p).map fun x => scalarBytes (rotr (BitVec.ofNat (rotBits w) x) amt).toNat

/-- Rule R107: the DATA of PACK. -/
def packData (order : Endian) (wsc : Nat) (p : Bytes) : Except Error Bytes :=
  (packOperands wsc p).map fun xs => pack (wordSize wsc) order xs

/-- Rule R108: the DATA of UNPACK. -/
def unpackData (order : Endian) (wsc : Nat) (p : Bytes) : Except Error Bytes :=
  (unpack (wordSize wsc) order p).map fun xs => pack 8 .big xs

/-- Rule R105: ROTL, rotate a word left. -/
def execRotl (w : RotWidth) (amt : Nat) (s : State) : Outcome := s.performPure (rotlData w amt)

/-- Rule R106: ROTR, rotate a word right. -/
def execRotr (w : RotWidth) (amt : Nat) (s : State) : Outcome := s.performPure (rotrData w amt)

/-- Rule R107: PACK, serialise words to bytes. -/
def execPack (order : Endian) (wsc : Nat) (s : State) : Outcome := s.performPure (packData order wsc)

/-- Rule R108: UNPACK, parse bytes into words. -/
def execUnpack (order : Endian) (wsc : Nat) (s : State) : Outcome := s.performPure (unpackData order wsc)

end Sys2Proof.Machine
end

