-- ==== Sys2Proof/Machine/Dispatch.lean ====
section
/-! DEFINITION. exec: the meaning of every command (spec/30_encoding.md rule R71). -/

namespace Sys2Proof.Machine

def exec (i : Instr) (s : State) : Host.Outcome State Fault Refusal :=
  match i with
  | .init alg => Sys2Proof.Machine.execInit alg s
  | .update => Sys2Proof.Machine.execUpdate s
  | .digest => Sys2Proof.Machine.execDigest s
  | .hexdigest => Sys2Proof.Machine.execHexdigest s
  | .compressMd5 => Sys2Proof.Machine.execCompressMd5 s
  | .compressSha1 => Sys2Proof.Machine.execCompressSha1 s
  | .compressSha256 => Sys2Proof.Machine.execCompressSha256 s
  | .compressSha512 => Sys2Proof.Machine.execCompressSha512 s
  | .pad alg => Sys2Proof.Machine.execPad alg s
  | .rotl w amt => Sys2Proof.Machine.execRotl w amt s
  | .rotr w amt => Sys2Proof.Machine.execRotr w amt s
  | .pack order wsc => Sys2Proof.Machine.execPack order wsc s
  | .unpack order wsc => Sys2Proof.Machine.execUnpack order wsc s

end Sys2Proof.Machine
end

