-- ==== Sys2Proof/Machine/Step.lean ====
section
/-! DEFINITION. One step of the machine: the host's next action, or the block's own completion of a command
in progress (spec/30_encoding.md rule R60, spec/70_reset_and_hazards.md rules R295 to R298). -/

namespace Sys2Proof.Machine

/-- Rules R60, R62 and R72: the command in progress on instance `n` is decoded and performed; a word that
does not decode raises ILLEGAL_COMMAND before any other check (rule R263).  Where no command is in
progress there is nothing to perform and the host goes on (log entry 3: DESIGN CHOICE, safe). -/
def performCommand (s : State) (n : Nat) : Host.Outcome State Fault Refusal :=
  match s.port n with
  | none => .next s.advance
  | some r =>
    match decode r.cmd with
    | .error _ => .next ((s.advance.select n).raise .illegalCommand)
    | .ok i => exec i (s.advance.select n)

/-- One step. -/
def step (s : State) : Host.Outcome State Fault Refusal :=
  match s.nextMove with
  | .accept n r => s.accept n r
  | .perform n => performCommand s n
  | .reset => .next s.advance.resetBlock
  | .idle => .next s

/-- Log entry 5, DESIGN CHOICE, safe: instance 0 has the command word `w` (its low `nbits` bits) in progress, with the payload it
already had or an empty one, and the host's next action is to await its response. -/
def State.withFetchWord (s : State) (nbits w : Nat) : State :=
  { s.setInst 0
      { engine := s.engine 0,
        port := some { cmd := BitVec.ofNat 32 (w % 2 ^ nbits), payload := (s.port 0).elim [] Request.payload } } with
    script := s.script.take s.pc ++ .await 0 :: s.script.drop s.pc }

end Sys2Proof.Machine
end

