-- ==== Sys2Proof/Machine/Assembler.lean ====
section
/-! DEFINITION. The assembly syntax of the command set (spec/30_encoding.md rules R74 and R75): a line of text
to the command it stands for, and a command to the command words and payloads the host presents.  The
block has no assembler; this is the host's notation (spec/92_eei_decisions.md D23). -/

namespace Sys2Proof.Machine

/-! ## The commands of a line -/

/-- Rules R74 and R75: one line of assembly with its operands; `ws` is a word size in bytes.  `withPayload` is a
line that writes the payload of its command as bytes where the table gives the command none, or numbers
(log entry 8: DESIGN CHOICE, safe). -/
inductive AsmLine
  | init (alg : Alg) (m : Bytes)
  | update (m : Bytes)
  | digest
  | hexdigest
  | compress (alg : Alg) (m : Bytes)
  | pad (alg : Alg) (n : Nat)
  | rotl (w : RotWidth) (amt n : Nat)
  | rotr (w : RotWidth) (amt n : Nat)
  | pack (order : Endian) (ws : Nat) (ns : List Nat)
  | unpack (order : Endian) (ws : Nat) (m : Bytes)
  | new (alg : Alg)
  | hash (alg : Alg) (m : Bytes)
  | hexhash (alg : Alg) (m : Bytes)
  | withPayload (i : Instr) (m : Bytes)
deriving DecidableEq, Repr

/-- Rule R67: the WS code of a word size; an assembler refuses any size but these. -/
def wordSizeCode : Nat → Option Nat
  | 1 => some 0
  | 2 => some 1
  | 4 => some 2
  | 8 => some 3
  | _ => none

/-- Rule R74: numbers as operands of `ws` bytes big-endian; none where one does not fit (log
entry 8: DESIGN CHOICE, safe). -/
def numberBytes (ws : Nat) (ns : List Nat) : Option Bytes :=
  if ns.all (fun n => decide (n < 2 ^ (8 * ws))) then some (pack ws .big ns) else none

/-- Rule R74: one command word with its payload; none where an operand does not fit its field. -/
def asmCommand (i : Instr) (payload : Option Bytes) : Option (List (Word32 × Bytes)) :=
  if i.wellFormed then payload.map fun p => [(encode i, p)] else none

/-- Rules R74 and R75: the commands a line stands for, each as CMD and PAYLOAD. -/
def assemble : AsmLine → Option (List (Word32 × Bytes))
  | .init alg m => asmCommand (.init alg) (some m)
  | .update m => asmCommand .update (some m)
  | .digest => asmCommand .digest (some [])
  | .hexdigest => asmCommand .hexdigest (some [])
  | .compress alg m => asmCommand (compressInstr alg) (some m)
  | .pad alg n => asmCommand (.pad alg) (numberBytes 16 [n])
  | .rotl w amt n => asmCommand (.rotl w amt) (numberBytes 8 [n])
  | .rotr w amt n => asmCommand (.rotr w amt) (numberBytes 8 [n])
  | .pack order ws ns => (wordSizeCode ws).bind fun c => asmCommand (.pack order c) (numberBytes 8 ns)
  | .unpack order ws m => (wordSizeCode ws).bind fun c => asmCommand (.unpack order c) (some m)
  | .new alg => some [(encode (.init alg), [])]
  | .hash alg m => some [(encode (.init alg), m), (encode .digest, [])]
  | .hexhash alg m => some [(encode (.init alg), m), (encode .hexdigest, [])]
  | .withPayload i m => asmCommand i (some m)

/-- Rules R295 and R296: the host issues commands to one instance, waiting for each response. -/
def transactions (n : Nat) (cs : List (Word32 × Bytes)) : List HostAction :=
  cs.flatMap fun c => [.present n c.1 c.2, .await n]

/-! ## The text of a line -/

/-- Rule R74: the tokens of a line. -/
inductive Token
  | word (cs : List Char)
  | bytes (m : Bytes)
  | amount (n : Nat)
  | comma
deriving DecidableEq, Repr

/-- The value of a decimal digit. -/
def decDigit (c : Char) : Option Nat :=
  if 0x30 ≤ c.toNat ∧ c.toNat ≤ 0x39 then some (c.toNat - 0x30) else none

/-- The value of a hexadecimal digit. -/
def hexDigitValue (c : Char) : Option Nat :=
  if 0x61 ≤ c.toNat ∧ c.toNat ≤ 0x66 then some (c.toNat - 0x61 + 10)
  else if 0x41 ≤ c.toNat ∧ c.toNat ≤ 0x46 then some (c.toNat - 0x41 + 10)
  else decDigit c

/-- An unsigned numeral in a base. -/
def numeral (base : Nat) (digit : Char → Option Nat) (acc : Nat) : List Char → Option Nat
  | [] => some acc
  | c :: cs => (digit c).bind fun d => numeral base digit (base * acc + d) cs

/-- Rule R74, `<n>`: an unsigned integer in decimal or `0x` hexadecimal. -/
def parseNumber : List Char → Option Nat
  | '0' :: 'x' :: c :: cs => numeral 16 hexDigitValue 0 (c :: cs)
  | c :: cs => numeral 10 decDigit 0 (c :: cs)
  | [] => none

/-- Rule R74: the bytes of a quoted text after its opening quote, and the rest of the line. -/
def quotedText : List Char → Option (Bytes × List Char)
  | [] => none
  | '"' :: cs => some ([], cs)
  | '\\' :: c :: cs =>
    if c = '"' ∨ c = '\\' then (quotedText cs).map fun r => (BitVec.ofNat 8 c.toNat :: r.1, r.2) else none
  | c :: cs =>
    if c.toNat < 128 ∧ c ≠ '\\' then (quotedText cs).map fun r => (BitVec.ofNat 8 c.toNat :: r.1, r.2)
    else none

/-- Rule R74: the bytes of `x"hexdigits"` after its opening quote, and the rest of the line. -/
def quotedHex : List Char → Option (Bytes × List Char)
  | [] => none
  | '"' :: cs => some ([], cs)
  | [_] => none
  | c :: d :: cs =>
    (hexDigitValue c).bind fun h => (hexDigitValue d).bind fun l =>
      (quotedHex cs).map fun r => (BitVec.ofNat 8 (16 * h + l) :: r.1, r.2)

/-- A character of a mnemonic or a number. -/
def isWordChar (c : Char) : Bool := c.isAlphanum || c == '.'

/-- Rule R74: the tokens of a line; `;` starts a comment.  Each pass takes at least one character. -/
def tokens : Nat → List Char → Option (List Token)
  | 0, _ => some []
  | _, [] => some []
  | fuel + 1, c :: cs =>
    if c = ' ' ∨ c = '\t' then tokens fuel cs
    else if c = ';' then some []
    else if c = ',' then (tokens fuel cs).map fun ts => .comma :: ts
    else if c = '"' then
      (quotedText cs).bind fun r => (tokens fuel r.2).map fun ts => .bytes r.1 :: ts
    else if c = 'x' ∧ cs.head? = some '"' then
      (quotedHex cs.tail).bind fun r => (tokens fuel r.2).map fun ts => .bytes r.1 :: ts
    else if c = '#' then
      let ds := cs.takeWhile isWordChar
      if ds = [] then none
      else (numeral 10 decDigit 0 ds).bind fun n =>
        (tokens fuel (cs.dropWhile isWordChar)).map fun ts => .amount n :: ts
    else if isWordChar c then
      (tokens fuel (cs.dropWhile isWordChar)).map fun ts => .word (c :: cs.takeWhile isWordChar) :: ts
    else none

/-- Splits a mnemonic at its dots. -/
def splitDots : List Char → List (List Char)
  | [] => [[]]
  | c :: cs =>
    match splitDots cs with
    | [] => [[c]]
    | p :: ps => if c = '.' then [] :: p :: ps else (c :: p) :: ps

/-- Rule R74: the algorithm suffix of a mnemonic. -/
def parseAlg (p : List Char) : Option Alg :=
  if p = "MD5".toList then some .md5
  else if p = "SHA1".toList then some .sha1
  else if p = "SHA256".toList then some .sha256
  else if p = "SHA512".toList then some .sha512
  else none

/-- Rule R74: the width suffix of a rotate mnemonic. -/
def parseWidth (p : List Char) : Option RotWidth :=
  if p = "W32".toList then some .w32 else if p = "W64".toList then some .w64 else none

/-- Rule R74: the byte-order suffix of PACK and UNPACK. -/
def parseOrder (p : List Char) : Option Endian :=
  if p = "LE".toList then some .little else if p = "BE".toList then some .big else none

/-- Rule R74: the word size part of a PACK or UNPACK mnemonic. -/
def wordSizeText : List Char → Option Nat
  | ['1'] => some 1
  | ['2'] => some 2
  | ['4'] => some 4
  | ['8'] => some 8
  | _ => none

/-- Rule R74, `<bytes>`: omitted bytes are the empty sequence. -/
def bytesOperand : List Token → Option Bytes
  | [] => some []
  | [.bytes m] => some m
  | _ => none

/-- Rule R74: a list of numbers between commas, possibly empty. -/
def numberList : List Token → Option (List Nat)
  | [] => some []
  | [.word w] => (parseNumber w).map fun n => [n]
  | .word w :: .comma :: .word v :: ts =>
    (parseNumber w).bind fun n => (numberList (.word v :: ts)).map fun ns => n :: ns
  | _ => none

/-- Log entry 8, DESIGN CHOICE, safe: the operand of a command whose row of rule R74's table has no `<bytes>` may
be written as bytes, which are then its payload whatever their length: rule R74 leaves a payload of the wrong
length to the block, and `DIGEST "z"` and `ROTL.W32 #1, x"12345678"` stand in spec/95_test_vectors.md (P4, V10). -/
def orPayload (i : Instr) (line : List Token → Option AsmLine) : List Token → Option AsmLine
  | [.bytes m] => some (.withPayload i m)
  | ts => line ts

/-- A line with no operand. -/
def noOperand (line : AsmLine) (ts : List Token) : Option AsmLine := if ts = [] then some line else none

/-- Rule R74, `<n>`: one number. -/
def oneNumber : List Token → Option Nat
  | [.word w] => parseNumber w
  | _ => none

/-- Rule R74: a rotate amount and a number; or an amount and the payload as bytes (log entry 8: DESIGN CHOICE,
safe), of the command `i` of the amount. -/
def rotateOperands (i : Nat → Instr) (line : Nat → Nat → AsmLine) : List Token → Option AsmLine
  | .amount a :: .comma :: ts => orPayload (i a) (fun ts => (oneNumber ts).map (line a)) ts
  | _ => none

/-- Rules R74 and R75: a mnemonic of one part; a payload after DIGEST or HEXDIGEST is log entry 8's (DESIGN
CHOICE, safe). -/
def parseOne (name : List Char) (ts : List Token) : Option AsmLine :=
  if name = "UPDATE".toList then (bytesOperand ts).map .update
  else if name = "DIGEST".toList then orPayload .digest (noOperand .digest) ts
  else if name = "HEXDIGEST".toList then orPayload .hexdigest (noOperand .hexdigest) ts
  else none

/-- Rules R74 and R75: a mnemonic with one suffix. -/
def parseTwo (name suffix : List Char) (ts : List Token) : Option AsmLine :=
  if name = "ROTL".toList then
    (parseWidth suffix).bind fun w => rotateOperands (.rotl w) (.rotl w) ts
  else if name = "ROTR".toList then
    (parseWidth suffix).bind fun w => rotateOperands (.rotr w) (.rotr w) ts
  else (parseAlg suffix).bind fun alg =>
    if name = "INIT".toList then (bytesOperand ts).map (.init alg)
    else if name = "COMPRESS".toList then (bytesOperand ts).map (.compress alg)
    else if name = "HASH".toList then (bytesOperand ts).map (.hash alg)
    else if name = "HEXHASH".toList then (bytesOperand ts).map (.hexhash alg)
    else if name = "NEW".toList then noOperand (.new alg) ts
    else if name = "PAD".toList then orPayload (.pad alg) (fun ts => (oneNumber ts).map (.pad alg)) ts
    else none

/-- Rule R74: PACK and UNPACK, with a word size and a byte order. -/
def parseThree (name size order : List Char) (ts : List Token) : Option AsmLine :=
  (wordSizeText size).bind fun ws => (wordSizeCode ws).bind fun wsc => (parseOrder order).bind fun o =>
    if name = "PACK".toList then orPayload (.pack o wsc) (fun ts => (numberList ts).map (.pack o ws)) ts
    else if name = "UNPACK".toList then (bytesOperand ts).map (.unpack o ws)
    else none

/-- Rule R74: the command of a line of text; `some none` for a line that holds only a comment, and none
for a line that is not in the syntax. -/
def parseLine (line : List Char) : Option (Option AsmLine) :=
  (tokens line.length line).bind fun
    | [] => some none
    | .word m :: ts =>
      match splitDots m with
      | [name] => (parseOne name ts).map some
      | [name, suffix] => (parseTwo name suffix ts).map some
      | [name, size, order] => (parseThree name size order ts).map some
      | _ => none
    | _ => none

/-- Rule R74: a line of text to the command words and payloads it stands for. -/
def assembleText (line : String) : Option (List (Word32 × Bytes)) :=
  (parseLine line.toList).bind fun
    | none => some []
    | some l => assemble l

end Sys2Proof.Machine
end

