-- ==== Sys2Proof/Safety.lean ====
section
/-! DEFINITION. What a well-formed state and a safe run are, in the terms the statements use. -/

namespace Sys2Proof.Machine

/-- Log entry 4: the canonical form of the instances: numbers strictly rising, and none as after reset. -/
abbrev Canonical (l : List (Nat × Instance)) : Prop :=
  (l.map Prod.fst).Pairwise (· < ·) ∧ ∀ e ∈ l, isReset e.2 = false

/-- Rule R24: the length of BUF is strictly less than one block. -/
abbrev Engine.Wf (v : Engine) : Prop := v.buf.length < v.blockBytes

/-- Rule R261: a response with a non-zero STATUS has empty DATA. -/
abbrev Response.Wf (r : Response) : Prop := r.status ≠ .ok → r.data = []

/-- The invariant of the machine: the instances are in canonical form, every pending buffer is shorter
than a block (rule R24), and every error response has empty DATA (rule R261). -/
structure State.Inv (s : State) : Prop where
  canonical : Canonical s.instances
  buffers : ∀ n v, s.engine n = some v → v.Wf
  responses : ∀ r ∈ s.responses, r.Wf

/-- The command in progress that `exec` performs (rule R60). -/
abbrev State.Performing (s : State) (r : Request) : Prop := s.port s.active = some r

/-- Rules R295 and R296: the host's duty over the actions it has left, from the set `busy` of instances
whose response it still waits for: it presents a command only to an instance of the platform whose
previous response has been returned. -/
def KeepsDuty (busy : Nat → Bool) : List HostAction → Prop
  | [] => True
  | .present n _ _ :: as =>
    n < Config.numInstances ∧ busy n = false ∧ KeepsDuty (fun m => if m = n then true else busy m) as
  | .await n :: as => KeepsDuty (fun m => if m = n then false else busy m) as
  | .reset :: as => KeepsDuty (fun _ => false) as

/-- Rule R295: the host of this state keeps its duty from here on. -/
def State.HostDuty (s : State) : Prop := KeepsDuty (fun n => (s.port n).isSome) (s.script.drop s.pc)

/-- Rule R298: what a host observes of one instance: its state, and the (STATUS, DATA) sequence it returned. -/
def State.view (s : State) (n : Nat) : Instance × List (Status × Bytes) :=
  (s.inst n, (s.responses.filter fun r => decide (r.inst = n)).map fun r => (r.status, r.data))

/-! ## Sequences of transactions -/

/-- Rule R60: one transaction: command `i` with its payload is presented to instance `n` and performed. -/
def State.command (s : State) (n : Nat) (i : Instr) (payload : Bytes) : Outcome :=
  exec i ((s.setInst n { engine := s.engine n, port := some { cmd := encode i, payload := payload } }).select n)

/-- Rule R48: transactions one after another, each addressed to an instance. -/
def commands : List (Nat × Instr × Bytes) → State → Outcome
  | [], s => .next s
  | c :: cs, s =>
    match s.command c.1 c.2.1 c.2.2 with
    | .next t => commands cs t
    | .fault f => .fault f
    | .refused r => .refused r

/-- Rule R262: the statuses a command that has decoded can return; ILLEGAL_COMMAND is for a word that has
not decoded. -/
def statusesOf : Instr → List Status
  | .init _ => [.ok]
  | .update => [.ok, .error .notInitialized]
  | .digest => [.ok, .error .notInitialized, .error .precondition]
  | .hexdigest => [.ok, .error .notInitialized, .error .precondition]
  | .compressMd5 => [.ok, .error .precondition]
  | .compressSha1 => [.ok, .error .precondition]
  | .compressSha256 => [.ok, .error .precondition]
  | .compressSha512 => [.ok, .error .precondition]
  | .pad _ => [.ok, .error .precondition]
  | .rotl _ _ => [.ok, .error .precondition]
  | .rotr _ _ => [.ok, .error .precondition]
  | .pack _ _ => [.ok, .error .precondition]
  | .unpack _ _ => [.ok, .error .invalidInput]

/-- Rule R230: the commands that read and write no instance state. -/
def isPure : Instr → Bool
  | .init _ => false
  | .update => false
  | .digest => false
  | .hexdigest => false
  | .compressMd5 => true
  | .compressSha1 => true
  | .compressSha256 => true
  | .compressSha512 => true
  | .pad _ => true
  | .rotl _ _ => true
  | .rotr _ _ => true
  | .pack _ _ => true
  | .unpack _ _ => true

/-- The number of instances with a command in progress. -/
def busyCount (l : List (Nat × Instance)) : Nat := l.countP fun e => e.2.port.isSome

end Sys2Proof.Machine
end

