-- ==== Sys2Proof/Certificates/Slice0/Obligations.lean ====
section
/-! DEFINITION. The statements about the model.  Each docstring names the rule of spec/ it formalises.

`s.Performing r` says that the active instance's command in progress is `r` (rule R60);
`s.respond data` and `s.raise e` are the two ways a command ends without writing instance state, and
`s.complete e status data` the way one ends that leaves the engine `e`; `CommandEndChangesOneInstance` says
what they do and leave alone. -/

open Sys2Proof Sys2Proof.Machine

/-! ## Encoding -/

/-- Rules R61 to R67 and R71: decoding the word of a well-formed command gives that command. -/
def Obligations.DecodeOfEncodeIsTheCommand : Prop :=
  ∀ i : Instr, i.WellFormed → decode (encode i) = .ok i

/-- Rule R62: a word that decodes is the encoding of the well-formed command it decodes to; no bit of it
is dropped and every value of a free field is legal. -/
def Obligations.EncodeOfDecodeIsTheWord : Prop :=
  ∀ (cmd : Word32) (i : Instr), decode cmd = .ok i → i.WellFormed ∧ encode i = cmd

/-- Rule R71: the thirteen rows of the table; exactly one row matches each word that decodes, the row of its
command, and no row matches any other word. -/
def Obligations.DecodeAgreesWithOpcodeTable : Prop :=
  opcodeTable.map (fun row => (row.mnemonic, row.pattern, row.mask)) =
    [("INIT", 0x00000001#32, 0xFFFFFFCF#32), ("UPDATE", 0x00000002#32, 0xFFFFFFFF#32),
     ("DIGEST", 0x00000003#32, 0xFFFFFFFF#32), ("HEXDIGEST", 0x00000004#32, 0xFFFFFFFF#32),
     ("COMPRESS.MD5", 0x00000005#32, 0xFFFFFFFF#32), ("COMPRESS.SHA1", 0x00000015#32, 0xFFFFFFFF#32),
     ("COMPRESS.SHA256", 0x00000025#32, 0xFFFFFFFF#32), ("COMPRESS.SHA512", 0x00000035#32, 0xFFFFFFFF#32),
     ("PAD", 0x00000006#32, 0xFFFFFFCF#32), ("ROTL", 0x00000007#32, 0xFFFFC07F#32),
     ("ROTR", 0x00000008#32, 0xFFFFC07F#32), ("PACK", 0x00000009#32, 0xFFFF3FBF#32),
     ("UNPACK", 0x0000000A#32, 0xFFFF3FBF#32)] ∧
  ∀ cmd : Word32,
    (∀ i, decode cmd = .ok i → ∃ row ∈ opcodeTable, row.selects cmd = true ∧ row.mnemonic = i.mnemonic ∧
      ∀ row' ∈ opcodeTable, row'.selects cmd = true → row' = row) ∧
    (∀ e, decode cmd = .error e → ∀ row ∈ opcodeTable, row.selects cmd = false)

/-- Words of every family, written out from rules R71 and R74. -/
def Obligations.WrittenWordsDecode : Prop :=
  decode 0x00000021#32 = .ok (.init .sha256) ∧ decode 0x00000002#32 = .ok .update ∧
  decode 0x00000003#32 = .ok .digest ∧ decode 0x00000004#32 = .ok .hexdigest ∧
  decode 0x00000015#32 = .ok .compressSha1 ∧ decode 0x00000036#32 = .ok (.pad .sha512) ∧
  decode 0x00003F87#32 = .ok (.rotl .w64 63) ∧ decode 0x00002108#32 = .ok (.rotr .w32 33) ∧
  decode 0x00008049#32 = .ok (.pack .little 2) ∧ decode 0x0000400A#32 = .ok (.unpack .big 1) ∧
  decode 0x00000000#32 = .error (.reservedOpcode 0) ∧ decode 0x0000000F#32 = .error (.reservedOpcode 15) ∧
  decode 0x00010007#32 = .error (.reservedBits 7)

/-! ## The step -/

/-- Rule R60: when the host awaits the response of an instance, or has no action left and that instance is
the first with a command in progress, and the command word decodes, the step is `exec` of that
command, with the instance selected and the host's index moved past its action.  That commands left at the
end of the host's list are performed lowest-numbered first is the model's choice (log entry 3). -/
def Obligations.StepRunsDecodedCommand : Prop :=
  ∀ (s : State) (n : Nat) (r : Request) (i : Instr),
    (s.script[s.pc]? = some (.await n) ∨ (s.script[s.pc]? = none ∧ firstBusy s.instances = some n)) →
    s.port n = some r → decode r.cmd = .ok i →
    ∃ t, step s = exec i t ∧ t.active = n ∧ t.script = s.script ∧ t.instances = s.instances ∧
      t.responses = s.responses ∧ t.pc = (if s.pc < s.script.length then s.pc + 1 else s.pc)

/-- Log entry 5: a command word placed by `withFetchWord` is the one the next step runs, on instance 0 and
with every engine as before. -/
def Obligations.FetchedWordRunsNext : Prop :=
  ∀ (s : State) (w : Nat) (i : Instr), decodeTableWord 32 w = some i →
    ∃ t, step (s.withFetchWord 32 w) = exec i t ∧ t.active = 0 ∧ (∀ m, t.engine m = s.engine m) ∧
      (∃ r, t.port 0 = some r ∧ decode r.cmd = .ok i) ∧ t.responses = s.responses

/-- Rules R60 and R72: a word that selects no row of the opcode table raises ILLEGAL_COMMAND: the step
answers with empty DATA and changes no engine and no other instance. -/
def Obligations.IllegalWordRaisesIllegalCommand : Prop :=
  ∀ (s : State) (n : Nat) (r : Request), s.nextMove = .perform n → s.port n = some r →
    (∀ row ∈ opcodeTable, row.selects r.cmd = false) →
    ∃ t, step s = .next t ∧ t.responses = s.responses ++ [⟨n, .error .illegalCommand, []⟩] ∧
      (∀ m, t.engine m = s.engine m) ∧ t.port n = none ∧ ∀ m, m ≠ n → t.inst m = s.inst m

/-- Rules R60 and R296: a command the host presents to an idle instance of the platform is in progress
after the step; nothing else changes but the host's index.  That presenting a command and performing it are
two steps is the model's choice (log entry 3). -/
def Obligations.PresentedCommandIsInProgress : Prop :=
  ∀ (s : State) (n : Nat) (cmd : Word32) (p : Bytes),
    s.script[s.pc]? = some (.present n cmd p) → n < Config.numInstances → s.port n = none →
    ∃ t, step s = .next t ∧ t.port n = some { cmd := cmd, payload := p } ∧ t.engine n = s.engine n ∧
      (∀ m, m ≠ n → t.inst m = s.inst m) ∧ t.pc = s.pc + 1 ∧ t.responses = s.responses ∧ t.script = s.script

/-- Rule R50: a command presented to an instance before the response to its previous command has been
returned is refused. -/
def Obligations.OverlappingCommandIsRefused : Prop :=
  ∀ (s : State) (n : Nat) (cmd : Word32) (p : Bytes) (r : Request),
    s.script[s.pc]? = some (.present n cmd p) → n < Config.numInstances → s.port n = some r →
    step s = .refused (.overlappingCommand n)

/-- Rules R50 and R266: a step is refused only for a host that overlaps commands, or that presents one to an
instance number outside NUM_INSTANCES (decision D29, log entry 4), which is always refused; no command is
ever refused, and no step faults. -/
def Obligations.OnlyHostMistakesAreRefused : Prop :=
  ∀ s : State,
    ((∃ t, step s = .next t) ∨
      (∃ n cmd p, s.script[s.pc]? = some (.present n cmd p) ∧
        ((step s = .refused (.overlappingCommand n) ∧ s.port n ≠ none) ∨
          (step s = .refused (.noSuchInstance n) ∧ Config.numInstances ≤ n)))) ∧
    (∀ n cmd p, s.script[s.pc]? = some (.present n cmd p) → Config.numInstances ≤ n →
      step s = .refused (.noSuchInstance n))

/-- Log entry 2: `exec` of any command with no command in progress stops under its own name; by
`OnlyHostMistakesAreRefused` no step does. -/
def Obligations.ExecNeedsACommandInProgress : Prop :=
  ∀ (i : Instr) (s : State), s.port s.active = none → exec i s = .refused (.noCommandInProgress s.active)

/-- Rule R290: the reset event puts every instance into the reset state whatever the state before it, and
delivers no response to the commands it abandons.  That it leaves the responses already delivered, the host's
list and its index (moved by one) to the host is the model's choice (log entry 6). -/
def Obligations.ResetEventResetsEveryInstance : Prop :=
  ∀ s : State, s.script[s.pc]? = some .reset →
    ∃ t, step s = .next t ∧ (∀ n, validFlag (t.inst n) = false ∧ t.engine n = none ∧ t.port n = none) ∧
      t.responses = s.responses ∧ t.script = s.script ∧ t.pc = s.pc + 1

/-- Rules R32 and R291: after reset every instance has VALID = 0, its other elements hold no value, no
command is in progress, and the block waits. -/
def Obligations.ResetStateWaitsUninitialised : Prop :=
  (∀ n, validFlag (State.reset.inst n) = false ∧ State.reset.engine n = none ∧ State.reset.port n = none) ∧
  step State.reset = .next State.reset

/-- Rules R24, R32 and R261: the invariant holds after reset; the canonical form in it is log entry 4. -/
def Obligations.ResetStateMeetsInvariant : Prop := State.reset.Inv

/-- Every step keeps the invariant: the canonical form of the instances (log entry 4), pending buffers
shorter than a block (rule R24), and empty DATA of error responses (rule R261). -/
def Obligations.StepKeepsInvariant : Prop :=
  ∀ s t : State, s.Inv → step s = .next t → t.Inv

/-- Rules R50 and R295: while the host keeps its duty no step is refused, and the duty is kept. -/
def Obligations.DutifulHostIsNeverRefused : Prop :=
  ∀ s : State, s.HostDuty → ∃ t, step s = .next t ∧ t.HostDuty

/-- Rules R240 and R297: every command terminates.  Once the host has no action left, as many steps as
there are commands in progress end them all, each with one response.  That the block performs them with no
awaiting host action is the model's choice (log entry 3). -/
def Obligations.CommandsInProgressAllEnd : Prop :=
  ∀ s : State, s.Inv → s.script.length ≤ s.pc →
    ∃ t : State, Sys2Proof.core.run (busyCount s.instances) s = .next t ∧ (∀ n, t.port n = none) ∧
      t.responses.length = s.responses.length + busyCount s.instances

/-- Rules R60 and R296: presenting a command and awaiting its response takes the machine, in two steps,
through `exec` of that command with its payload in the port.  Those two steps are the model's choice (log
entry 3). -/
def Obligations.TransactionIsPresentThenAwait : Prop :=
  ∀ (s : State) (n : Nat) (i : Instr) (p : Bytes), i.WellFormed → n < Config.numInstances →
    s.port n = none → s.script[s.pc]? = some (.present n (encode i) p) →
    s.script[s.pc + 1]? = some (.await n) →
    Sys2Proof.core.run 2 s = (({ s with pc := s.pc + 2 } : State).command n i p : Outcome)

/-! ## The end of a command -/

/-- Rules R27, R33 and R60: the frame of every command.  The end of a command changes the active
instance's engine to the one given, frees its port and appends one response; every other instance, the
host's list and its index are as before. -/
def Obligations.CommandEndChangesOneInstance : Prop :=
  ∀ (s : State) (e : Option Engine) (st : Status) (d : Bytes),
    (s.complete e st d).engine s.active = e ∧ (s.complete e st d).port s.active = none ∧
    (∀ m, m ≠ s.active → (s.complete e st d).inst m = s.inst m) ∧
    (s.complete e st d).responses = s.responses ++ [⟨s.active, st, d⟩] ∧
    (s.complete e st d).script = s.script ∧ (s.complete e st d).pc = s.pc ∧
    (s.complete e st d).active = s.active

/-- Rules R33, R47 and R230: the frame, over all commands.  A command leaves every other instance, the
host's list and its index alone and answers with exactly one response; and only INIT and UPDATE change
the engine of their own instance. -/
def Obligations.CommandTouchesOnlyItsInstance : Prop :=
  ∀ (i : Instr) (s t : State), exec i s = .next t →
    (∀ m, m ≠ s.active → t.inst m = s.inst m) ∧ t.port s.active = none ∧
    t.script = s.script ∧ t.pc = s.pc ∧ t.active = s.active ∧
    (∃ st d, t.responses = s.responses ++ [⟨s.active, st, d⟩]) ∧
    ((∀ alg, i ≠ .init alg) → i ≠ .update → t.engine s.active = s.engine s.active)

/-- Rule R261: a command that returns a non-zero STATUS returns empty DATA and leaves every element of
every instance's state as it was, whether its word decodes or not. -/
def Obligations.FailedCommandChangesNothing : Prop :=
  ∀ (s : State) (n : Nat) (r : Request), s.nextMove = .perform n → s.port n = some r →
    ∃ t st d, step s = .next t ∧ t.responses = s.responses ++ [⟨n, st, d⟩] ∧ t.port n = none ∧
      (statusCode st ≠ 0#8 → d = [] ∧ (∀ m, t.engine m = s.engine m) ∧ ∀ m, m ≠ n → t.inst m = s.inst m)

/-- Rule R260: the codes of the statuses; no other value occurs. -/
def Obligations.StatusCodesAreZeroToFour : Prop :=
  statusCode .ok = 0#8 ∧ statusCode (.error .illegalCommand) = 1#8 ∧
  statusCode (.error .invalidInput) = 2#8 ∧ statusCode (.error .notInitialized) = 3#8 ∧
  statusCode (.error .precondition) = 4#8 ∧ ∀ st, (statusCode st).toNat ≤ 4

/-- Rule R262: a command that has decoded returns one of the statuses the table gives it. -/
def Obligations.CommandReturnsItsListedStatuses : Prop :=
  ∀ (i : Instr) (s t : State), exec i s = .next t →
    ∃ st d, t.responses = s.responses ++ [⟨s.active, st, d⟩] ∧ st ∈ statusesOf i

/-- Rule R263: the order in which errors are reported: the word before everything; VALID before the
payload; the payload's length before the operands' range. -/
def Obligations.ErrorsAreReportedInPriorityOrder : Prop :=
  ∀ (s : State) (n : Nat) (r : Request), s.nextMove = .perform n → s.port n = some r →
    let reports := fun e : Error => step s = .next ((s.advance.select n).raise e)
    (∀ e, decode r.cmd = .error e → reports .illegalCommand) ∧
    (s.engine n = none →
      (decode r.cmd = .ok .update ∨ decode r.cmd = .ok .digest ∨ decode r.cmd = .ok .hexdigest) →
      reports .notInitialized) ∧
    (s.engine n ≠ none → r.payload ≠ [] →
      (decode r.cmd = .ok .digest ∨ decode r.cmd = .ok .hexdigest) → reports .precondition) ∧
    (∀ order wsc, decode r.cmd = .ok (.unpack order wsc) → r.payload.length % 2 ^ wsc ≠ 0 →
      reports .invalidInput) ∧
    (∀ order wsc, decode r.cmd = .ok (.pack order wsc) → r.payload.length % 8 ≠ 0 → reports .precondition) ∧
    (∀ order wsc, decode r.cmd = .ok (.pack order wsc) → r.payload.length % 8 = 0 →
      (∃ j, j < r.payload.length / 8 ∧
        2 ^ (8 * 2 ^ wsc) ≤ wordValue .big (slice r.payload (8 * j) (8 * j + 8))) → reports .precondition) ∧
    (∀ w amt, (decode r.cmd = .ok (.rotl w amt) ∨ decode r.cmd = .ok (.rotr w amt)) →
      (r.payload.length ≠ 8 ∨ 2 ^ rotBits w ≤ wordValue .big r.payload) → reports .precondition) ∧
    (∀ alg, decode r.cmd = .ok (.pad alg) → r.payload.length ≠ 16 → reports .precondition) ∧
    (∀ alg, decode r.cmd = .ok (compressInstr alg) → r.payload.length ≠ stateSize alg + blockSize alg →
      reports .precondition)

/-! ## The engine commands -/

/-- Rule R232: INIT sets VALID, ALG and the initial value, and absorbs its payload: it folds the whole
blocks of the payload into IV(ALG) in order, keeps the rest in BUF and counts the blocks. -/
def Obligations.InitLoadsInitialValueAndAbsorbs : Prop :=
  ∀ (alg : Alg) (s : State) (r : Request), s.Performing r →
    exec (.init alg) s = .next (s.complete
      (some { h := foldBlocks (ivOf alg) (blockSize alg) r.payload,
              buf := r.payload.drop (r.payload.length / blockSize alg * blockSize alg),
              blocks := r.payload.length / blockSize alg }) .ok [])

/-- Rule R233: UPDATE on an initialised instance folds exactly floor((len(BUF) + len(m)) / B) blocks of
BUF ++ m in stream order, keeps the rest in BUF and adds the number of blocks to BLOCKS. -/
def Obligations.UpdateFoldsWholeBlocks : Prop :=
  ∀ (s : State) (r : Request) (v : Engine), s.Performing r → s.engine s.active = some v →
    exec .update s = .next (s.complete
      (some { h := foldBlocks v.h v.blockBytes (v.buf ++ r.payload),
              buf := (v.buf ++ r.payload).drop ((v.buf.length + r.payload.length) / v.blockBytes * v.blockBytes),
              blocks := v.blocks + (v.buf.length + r.payload.length) / v.blockBytes }) .ok [])

/-- Rule R234: DIGEST with an empty payload returns the packed words after compressing BUF and the padding
of the whole message: one block where len(BUF) ≤ B - 1 - L and two where it is longer; it writes no
instance state.  Rule R237 gives its length. -/
def Obligations.DigestCompressesOneOrTwoBlocks : Prop :=
  ∀ (s : State) (r : Request) (v : Engine), s.Performing r → s.engine s.active = some v → v.Wf →
    r.payload = [] →
    let B := blockSize v.alg
    let L := lengthSize v.alg
    let t := v.buf ++ padding (v.blocks * B + v.buf.length) B L (byteOrder v.alg)
    let d := if v.buf.length ≤ B - 1 - L then hashBytes (compress v.h t)
      else hashBytes (compress (compress v.h (t.take B)) (t.drop B))
    exec .digest s = .next (s.respond d) ∧ d.length = digestSize v.alg

/-- Rules R235 and R236: HEXDIGEST returns the DIGEST of the same state as lowercase hexadecimal text, two
ASCII characters per byte, the high nibble first. -/
def Obligations.HexdigestIsHexOfDigest : Prop :=
  ∀ (s : State) (r : Request) (v : Engine), s.Performing r → s.engine s.active = some v → r.payload = [] →
    let ascii : List Byte := [0x30#8, 0x31#8, 0x32#8, 0x33#8, 0x34#8, 0x35#8, 0x36#8, 0x37#8, 0x38#8, 0x39#8,
      0x61#8, 0x62#8, 0x63#8, 0x64#8, 0x65#8, 0x66#8]
    ∃ d x, exec .digest s = .next (s.respond d) ∧ exec .hexdigest s = .next (s.respond x) ∧
      x.length = 2 * digestSize v.alg ∧
      ∀ k, k < d.length → x[2 * k]? = ascii[(d.getD k 0#8).toNat / 16]? ∧
        x[2 * k + 1]? = ascii[(d.getD k 0#8).toNat % 16]?

/-- Rule R25: BLOCKS * B + len(BUF) counts the bytes passed since the last INIT, its payload included. -/
def Obligations.TotalBytesAreCounted : Prop :=
  ∀ (s : State) (r : Request), s.Performing r →
    (∀ alg, ∃ t v, exec (.init alg) s = .next t ∧ t.engine s.active = some v ∧ v.alg = alg ∧ v.Wf ∧
      v.blocks * blockSize alg + v.buf.length = r.payload.length) ∧
    (∀ u, s.engine s.active = some u → ∃ t v, exec .update s = .next t ∧ t.engine s.active = some v ∧
      v.alg = u.alg ∧ v.Wf ∧
      v.blocks * blockSize u.alg + v.buf.length =
        u.blocks * blockSize u.alg + u.buf.length + r.payload.length)

/-- Rule R55: any split of a message into UPDATEs leaves the instance as one UPDATE of the whole message
does, and a following DIGEST returns the same bytes. -/
def Obligations.ChunkingInvariance : Prop :=
  ∀ (s : State) (n : Nat) (alg : Alg) (ms : List Bytes),
    ∃ t u, commands ((n, .init alg, []) :: ms.map fun m => (n, Instr.update, m)) s = .next t ∧
      commands [(n, .init alg, []), (n, .update, ms.flatten)] s = .next u ∧ t.inst n = u.inst n ∧
      ∃ d t' u', t.command n .digest [] = .next t' ∧ u.command n .digest [] = .next u' ∧
        t'.responses = t.responses ++ [⟨n, .ok, d⟩] ∧ u'.responses = u.responses ++ [⟨n, .ok, d⟩]

/-- Rule R239: INIT(alg, m) leaves the same state as INIT(alg, []) followed by UPDATE(m). -/
def Obligations.ConstructionEquivalence : Prop :=
  ∀ (s : State) (n : Nat) (alg : Alg) (m : Bytes),
    ∃ t u, commands [(n, .init alg, m)] s = .next t ∧
      commands [(n, .init alg, []), (n, .update, m)] s = .next u ∧ t.instances = u.instances

/-- Rule R238(a): the digest of INIT(alg, m) is the one-shot computation of the algorithm: every block of
m ++ padding(len(m)) folded into IV(alg), and the words packed. -/
def Obligations.IncrementalDigestIsOneShotHash : Prop :=
  ∀ (s : State) (n : Nat) (alg : Alg) (m : Bytes),
    let padded := m ++ padding m.length (blockSize alg) (lengthSize alg) (byteOrder alg)
    ∃ t, commands [(n, .init alg, m), (n, .digest, [])] s = .next t ∧
      t.responses = s.responses ++
        [⟨n, .ok, []⟩, ⟨n, .ok, hashBytes (foldBlocks (ivOf alg) (blockSize alg) padded)⟩]

/-- Rule R47: every command except UPDATE is idempotent: twice in a row it leaves the same instance and
returns the same response as once.  Rules R26 and R238(c) are its case for DIGEST. -/
def Obligations.CommandsButUpdateAreIdempotent : Prop :=
  ∀ (s : State) (n : Nat) (i : Instr) (p : Bytes), i ≠ .update →
    ∃ t u st d, commands [(n, i, p)] s = .next t ∧ commands [(n, i, p), (n, i, p)] s = .next u ∧
      u.inst n = t.inst n ∧ t.responses = s.responses ++ [⟨n, st, d⟩] ∧
      u.responses = s.responses ++ [⟨n, st, d⟩, ⟨n, st, d⟩]

/-- Decision D13 (rule R7(a)): a counter BLOCKS of 118 bits gives the same digest as the unbounded one. -/
def Obligations.BlocksCounterMayWrapAt118Bits : Prop :=
  ∀ (s t : State) (r : Request) (v : Engine), s.Performing r → t.Performing r → r.payload = [] →
    s.engine s.active = some v → t.engine t.active = some { v with blocks := v.blocks % 2 ^ 118 } →
    ∃ d, exec .digest s = .next (s.respond d) ∧ exec .digest t = .next (t.respond d)

/-- Rules R21 and R293: no command and no action of the host but the reset event clears VALID, and VALID
becomes 1 only by an INIT of that instance. -/
def Obligations.OnlyResetClearsValid : Prop :=
  ∀ (s t : State) (n : Nat), step s = .next t →
    (s.script[s.pc]? ≠ some .reset → validFlag (s.inst n) = true → validFlag (t.inst n) = true) ∧
    (validFlag (s.inst n) = false → validFlag (t.inst n) = true →
      ∃ r alg, s.nextMove = .perform n ∧ s.port n = some r ∧ decode r.cmd = .ok (.init alg))

/-- Rule R22: ALG is written only by INIT, with the algorithm of its command word. -/
def Obligations.OnlyInitWritesAlg : Prop :=
  ∀ (i : Instr) (s t : State) (v : Engine), exec i s = .next t → t.engine s.active = some v →
    (∃ u, s.engine s.active = some u ∧ u.alg = v.alg) ∨ i = .init v.alg

/-! ## The pure commands -/

/-- Rule R230: a pure command reads nothing but its command word and payload, writes no instance state
and works whatever VALID is. -/
def Obligations.PureCommandsIgnoreInstanceState : Prop :=
  ∀ (i : Instr) (s t : State) (r : Request), isPure i = true → s.Performing r → t.Performing r →
    ∃ st d, exec i s = .next (s.complete (s.engine s.active) st d) ∧
      exec i t = .next (t.complete (t.engine t.active) st d)

/-- Rules R149, R178, R198 and R218: each COMPRESS command on a payload of its length returns the new
state in the digest's byte order. -/
def Obligations.CompressReturnsNewState : Prop :=
  ∀ (s : State) (r : Request), s.Performing r →
    (r.payload.length = 80 → exec .compressMd5 s = .next (s.respond
      (hashBytes (compress (hashStateOfBytes .md5 (r.payload.take 16)) (r.payload.drop 16))))) ∧
    (r.payload.length = 84 → exec .compressSha1 s = .next (s.respond
      (hashBytes (compress (hashStateOfBytes .sha1 (r.payload.take 20)) (r.payload.drop 20))))) ∧
    (r.payload.length = 96 → exec .compressSha256 s = .next (s.respond
      (hashBytes (compress (hashStateOfBytes .sha256 (r.payload.take 32)) (r.payload.drop 32))))) ∧
    (r.payload.length = 192 → exec .compressSha512 s = .next (s.respond
      (hashBytes (compress (hashStateOfBytes .sha512 (r.payload.take 64)) (r.payload.drop 64)))))

/-- Rule R70: state words travel in the digest's format: unpacking the bytes of a hash state gives it back,
and its S = N * W / 8 bytes are those of a digest (rule R237). -/
def Obligations.HashStateBytesRoundTrip : Prop :=
  ∀ h : HashState, hashStateOfBytes (algOf h) (hashBytes h) = h ∧
    (hashBytes h).length = stateSize (algOf h) ∧ stateSize (algOf h) = digestSize (algOf h)

/-- Rules R120 and R125: PAD of 16 bytes returns 0x80, the least number of zero bytes that completes a
block, and the bit length modulo 2^(8L) in the algorithm's byte order. -/
def Obligations.PadReturnsMinimalPadding : Prop :=
  ∀ (alg : Alg) (s : State) (r : Request), s.Performing r → r.payload.length = 16 →
    let T := wordValue .big r.payload
    let B := blockSize alg
    let L := lengthSize alg
    ∃ z, exec (.pad alg) s = .next (s.respond
        (0x80#8 :: (List.replicate z 0x00#8 ++ pack L (byteOrder alg) [8 * T % 2 ^ (8 * L)]))) ∧
      (T + 1 + z + L) % B = 0 ∧ ∀ z', (T + 1 + z' + L) % B = 0 → z ≤ z'

/-- Rule R121: the length of the padding, and the branch between one and two blocks. -/
def Obligations.PaddingLengthAndThreshold : Prop :=
  ∀ (alg : Alg) (T : Nat),
    let B := blockSize alg
    let L := lengthSize alg
    let n := (padding T B L (byteOrder alg)).length
    n = 1 + ((B : Int) - 1 - L - (T % B : Nat)) % B + L ∧ 1 + L ≤ n ∧ n ≤ B + L ∧
    (T % B ≤ B - 1 - L → T % B + n = B) ∧ (B - 1 - L < T % B → T % B + n = 2 * B) ∧ (T + n) % B = 0

/-- Rule R124: the length field holds 8 * T modulo 2^(8L), so that a message longer by 2^(8L) bits has the
same padding. -/
def Obligations.LengthFieldWrapsSilently : Prop :=
  ∀ (alg : Alg) (T : Nat),
    let L := lengthSize alg
    let p := algPadding alg T
    wordValue (byteOrder alg) (p.drop (p.length - L)) = 8 * T % 2 ^ (8 * L) ∧
    algPadding alg (T + 2 ^ (8 * L - 3)) = p

/-- Rule R123: the SHA-512 length field is its high 64-bit word and then its low one, each big-endian; the
high word is non-zero only when T ≥ 2^61. -/
def Obligations.Sha512LengthFieldIsTwoWords : Prop :=
  ∀ T : Nat,
    let len := 8 * T % 2 ^ 128
    let p := algPadding .sha512 T
    p.drop (p.length - 16) = pack 16 .big [len] ∧
    pack 16 .big [len] = pack 8 .big [len / 2 ^ 64] ++ pack 8 .big [len % 2 ^ 64] ∧
    (len / 2 ^ 64 ≠ 0 → 2 ^ 61 ≤ T)

/-- Rule R105 with the bits of rule R100: ROTL of an operand in range returns the word whose bit i is bit
(i - amt) mod W of the operand. -/
def Obligations.RotlReturnsRotatedWord : Prop :=
  ∀ (w : RotWidth) (amt : Nat) (s : State) (r : Request), s.Performing r → r.payload.length = 8 →
    wordValue .big r.payload < 2 ^ rotBits w →
    ∃ y, exec (.rotl w amt) s = .next (s.respond (pack 8 .big [y])) ∧ y < 2 ^ rotBits w ∧
      ∀ i, i < rotBits w → y.testBit i =
        (wordValue .big r.payload).testBit ((i + (rotBits w - amt % rotBits w)) % rotBits w)

/-- Rule R106 with the bits of rule R101: ROTR of an operand in range returns the word whose bit i is bit
(i + amt) mod W of the operand. -/
def Obligations.RotrReturnsRotatedWord : Prop :=
  ∀ (w : RotWidth) (amt : Nat) (s : State) (r : Request), s.Performing r → r.payload.length = 8 →
    wordValue .big r.payload < 2 ^ rotBits w →
    ∃ y, exec (.rotr w amt) s = .next (s.respond (pack 8 .big [y])) ∧ y < 2 ^ rotBits w ∧
      ∀ i, i < rotBits w → y.testBit i = (wordValue .big r.payload).testBit ((i + amt) % rotBits w)

/-- Rules R100 and R101: rotl_W(x, n) in shifts, with r = n mod W, and its bits: bit i is bit (i - r) mod W of
x; rotr_W(x, n) = rotl_W(x, (-n) mod W), and bit i of it is bit (i + n) mod W of x; for every integer n. -/
def Obligations.RotationMovesEveryBit : Prop :=
  ∀ (w : Nat), (w = 32 ∨ w = 64) → ∀ (x : BitVec w) (n : Int),
    let r := (n % w).toNat
    (r = 0 → rotl x n = x) ∧
    (r ≠ 0 → (rotl x n).toNat = (x.toNat * 2 ^ r % 2 ^ w) ||| (x.toNat / 2 ^ (w - r))) ∧
    rotr x n = rotl x (-n % w) ∧
    ∀ i, i < w → (rotl x n).getLsbD i = x.getLsbD (((i : Int) - r) % w).toNat ∧
      (rotr x n).getLsbD i = x.getLsbD (((i : Int) + n) % w).toNat

/-- Rule R110: the rotation laws. -/
def Obligations.RotationLaws : Prop :=
  ∀ (w : Nat), (w = 32 ∨ w = 64) → ∀ (x : BitVec w) (m n : Int),
    rotl (rotl x m) n = rotl x (m + n) ∧ rotr (rotl x n) n = x ∧ rotl x (n + w) = rotl x n

/-- Rule R42: the value of a byte sequence in each byte order. -/
def Obligations.ByteOrderGivesTheValue : Prop :=
  ∀ b : Bytes,
    wordValue .little b = ((List.range b.length).map fun i => (b.getD i 0#8).toNat * 2 ^ (8 * i)).sum ∧
    wordValue .big b =
      ((List.range b.length).map fun i => (b.getD i 0#8).toNat * 2 ^ (8 * (b.length - 1 - i))).sum

/-- Rules R102 and R107: PACK of words in range returns k * ws bytes, byte i of word j at place j * ws + i,
in the byte order of the command. -/
def Obligations.PackReturnsBytesOfWords : Prop :=
  ∀ (order : Endian) (wsc : Nat) (s : State) (r : Request), wsc < 4 → s.Performing r →
    r.payload.length % 8 = 0 →
    let word := fun j => wordValue .big (slice r.payload (8 * j) (8 * j + 8))
    (∀ j, j < r.payload.length / 8 → word j < 2 ^ (8 * 2 ^ wsc)) →
    ∃ d, exec (.pack order wsc) s = .next (s.respond d) ∧ d.length = r.payload.length / 8 * 2 ^ wsc ∧
      ∀ j i, j < r.payload.length / 8 → i < 2 ^ wsc →
        (d.getD (j * 2 ^ wsc + i) 0#8).toNat =
          word j / 2 ^ (8 * (match order with | .little => i | .big => 2 ^ wsc - 1 - i)) % 256

/-- Rules R103 and R108: UNPACK of a payload that is a multiple of ws bytes returns each word, in order, as
8 bytes big-endian. -/
def Obligations.UnpackReturnsWordsOfBytes : Prop :=
  ∀ (order : Endian) (wsc : Nat) (s : State) (r : Request), wsc < 4 → s.Performing r →
    r.payload.length % 2 ^ wsc = 0 →
    ∃ d, exec (.unpack order wsc) s = .next (s.respond d) ∧ d.length = r.payload.length / 2 ^ wsc * 8 ∧
      ∀ j, j < r.payload.length / 2 ^ wsc →
        wordValue .big (slice d (8 * j) (8 * j + 8)) =
          wordValue order (slice r.payload (j * 2 ^ wsc) (j * 2 ^ wsc + 2 ^ wsc))

/-- Rule R109: unpack inverts pack on words in range, and UNPACK applied to the DATA of PACK returns the
PACK payload. -/
def Obligations.UnpackInvertsPack : Prop :=
  ∀ (order : Endian) (wsc : Nat), wsc < 4 →
    (∀ xs : List Nat, (∀ x ∈ xs, x < 2 ^ (8 * 2 ^ wsc)) →
      unpack (2 ^ wsc) order (pack (2 ^ wsc) order xs) = .ok xs) ∧
    (∀ (s t : State) (r q : Request) (d : Bytes), s.Performing r → t.Performing q →
      exec (.pack order wsc) s = .next (s.respond d) → q.payload = d →
      exec (.unpack order wsc) t = .next (t.respond r.payload))

/-- Rule R75's note: for every operand, ROTR by a returns the DATA (and the STATUS) of ROTL by
(W - a) mod W, for every amount a, those above W of ROTR.W32 too. -/
def Obligations.RotrIsRotlByTheComplement : Prop :=
  ∀ (w : RotWidth) (amt : Nat) (s : State) (r : Request), s.Performing r →
    ∃ t, exec (.rotr w amt) s = .next t ∧
      exec (.rotl w (((rotBits w : Int) - amt) % rotBits w).toNat) s = .next t

/-! ## The compression functions, step by step -/

/-- Rules R142, R143, R146, R147 and R148: md5_compress as the sequence of its 64 steps, each spelled out;
the index and the rotate amount of a step are rule R144's formulas and T its table. -/
def Obligations.Md5CompressFollowsItsSteps : Prop :=
  ∀ (h : Md5Words) (block : Bytes), block.length = 64 →
    ∃ (X : Nat → Word32) (v : Nat → Md5Words),
      (∀ j, j < 16 → (X j).toNat = (block.getD (4 * j) 0#8).toNat + (block.getD (4 * j + 1) 0#8).toNat * 2 ^ 8 +
        (block.getD (4 * j + 2) 0#8).toNat * 2 ^ 16 + (block.getD (4 * j + 3) 0#8).toNat * 2 ^ 24) ∧
      v 0 = h ∧
      (∀ i, i < 64 →
        let a := (v i).a
        let b := (v i).b
        let c := (v i).c
        let d := (v i).d
        let f := if i < 16 then (b &&& c) ||| (~~~b &&& d) else if i < 32 then (b &&& d) ||| (c &&& ~~~d)
          else if i < 48 then b ^^^ c ^^^ d else c ^^^ (b ||| ~~~d)
        let k := if i < 16 then i else if i < 32 then (1 + 5 * i) % 16 else if i < 48 then (5 + 3 * i) % 16
          else 7 * i % 16
        let amounts := if i < 16 then [7, 12, 17, 22] else if i < 32 then [5, 9, 14, 20]
          else if i < 48 then [4, 11, 16, 23] else [6, 10, 15, 21]
        let T := (md5Steps.map Md5Row.t).getD i 0#32
        v (i + 1) = ⟨d, b + rotl (a + f + X k + T) (amounts.getD (i % 4) 0 : Nat), b, c⟩) ∧
      md5Compress h block = ⟨h.a + (v 64).a, h.b + (v 64).b, h.c + (v 64).c, h.d + (v 64).d⟩

/-- Rules R172 to R177: sha1_compress as its schedule and the sequence of its 80 steps, each spelled out. -/
def Obligations.Sha1CompressFollowsItsSteps : Prop :=
  ∀ (h : Sha1Words) (block : Bytes), block.length = 64 →
    ∃ (W : Nat → Word32) (v : Nat → Sha1Words),
      (∀ j, j < 16 → (W j).toNat = (block.getD (4 * j) 0#8).toNat * 2 ^ 24 +
        (block.getD (4 * j + 1) 0#8).toNat * 2 ^ 16 + (block.getD (4 * j + 2) 0#8).toNat * 2 ^ 8 +
        (block.getD (4 * j + 3) 0#8).toNat) ∧
      (∀ t, 16 ≤ t → t < 80 → W t = rotl (W (t - 3) ^^^ W (t - 8) ^^^ W (t - 14) ^^^ W (t - 16)) 1) ∧
      v 0 = h ∧
      (∀ t, t < 80 →
        let a := (v t).a
        let b := (v t).b
        let c := (v t).c
        let d := (v t).d
        let e := (v t).e
        let f := if t < 20 then (b &&& c) ^^^ (~~~b &&& d)
          else if 40 ≤ t ∧ t < 60 then (b &&& c) ^^^ (b &&& d) ^^^ (c &&& d) else b ^^^ c ^^^ d
        let K := if t < 20 then 0x5A827999#32 else if t < 40 then 0x6ED9EBA1#32
          else if t < 60 then 0x8F1BBCDC#32 else 0xCA62C1D6#32
        v (t + 1) = ⟨rotl a 5 + f + e + K + W t, a, rotl b 30, c, d⟩) ∧
      sha1Compress h block =
        ⟨h.a + (v 80).a, h.b + (v 80).b, h.c + (v 80).c, h.d + (v 80).d, h.e + (v 80).e⟩

/-- Rules R193 to R197: sha256_compress as its schedule and the sequence of its 64 steps, each spelled out
over the constants of rule R192. -/
def Obligations.Sha256CompressFollowsItsSteps : Prop :=
  ∀ (h : Sha2Words 32) (block : Bytes), block.length = 64 →
    ∃ (W : Nat → Word32) (v : Nat → Sha2Words 32),
      (∀ j, j < 16 → (W j).toNat = wordValue .big (slice block (4 * j) (4 * j + 4))) ∧
      (∀ t, 16 ≤ t → t < 64 →
        let s0 := rotr (W (t - 15)) 7 ^^^ rotr (W (t - 15)) 18 ^^^ shr (W (t - 15)) 3
        let s1 := rotr (W (t - 2)) 17 ^^^ rotr (W (t - 2)) 19 ^^^ shr (W (t - 2)) 10
        W t = s1 + W (t - 7) + s0 + W (t - 16)) ∧
      v 0 = h ∧
      (∀ t, t < 64 →
        let x := v t
        let T1 := x.h + (rotr x.e 6 ^^^ rotr x.e 11 ^^^ rotr x.e 25) + ((x.e &&& x.f) ^^^ (~~~x.e &&& x.g)) +
          k256.getD t 0#32 + W t
        let T2 := (rotr x.a 2 ^^^ rotr x.a 13 ^^^ rotr x.a 22) +
          ((x.a &&& x.b) ^^^ (x.a &&& x.c) ^^^ (x.b &&& x.c))
        v (t + 1) = ⟨T1 + T2, x.a, x.b, x.c, x.d + T1, x.e, x.f, x.g⟩) ∧
      sha256Compress h block = ⟨h.a + (v 64).a, h.b + (v 64).b, h.c + (v 64).c, h.d + (v 64).d,
        h.e + (v 64).e, h.f + (v 64).f, h.g + (v 64).g, h.h + (v 64).h⟩

/-- Rules R213 to R217: sha512_compress as its schedule and the sequence of its 80 steps, each spelled out
over the constants of rule R212. -/
def Obligations.Sha512CompressFollowsItsSteps : Prop :=
  ∀ (h : Sha2Words 64) (block : Bytes), block.length = 128 →
    ∃ (W : Nat → Word64) (v : Nat → Sha2Words 64),
      (∀ j, j < 16 → (W j).toNat = wordValue .big (slice block (8 * j) (8 * j + 8))) ∧
      (∀ t, 16 ≤ t → t < 80 →
        let s0 := rotr (W (t - 15)) 1 ^^^ rotr (W (t - 15)) 8 ^^^ shr (W (t - 15)) 7
        let s1 := rotr (W (t - 2)) 19 ^^^ rotr (W (t - 2)) 61 ^^^ shr (W (t - 2)) 6
        W t = s1 + W (t - 7) + s0 + W (t - 16)) ∧
      v 0 = h ∧
      (∀ t, t < 80 →
        let x := v t
        let T1 := x.h + (rotr x.e 14 ^^^ rotr x.e 18 ^^^ rotr x.e 41) + ((x.e &&& x.f) ^^^ (~~~x.e &&& x.g)) +
          k512.getD t 0#64 + W t
        let T2 := (rotr x.a 28 ^^^ rotr x.a 34 ^^^ rotr x.a 39) +
          ((x.a &&& x.b) ^^^ (x.a &&& x.c) ^^^ (x.b &&& x.c))
        v (t + 1) = ⟨T1 + T2, x.a, x.b, x.c, x.d + T1, x.e, x.f, x.g⟩) ∧
      sha512Compress h block = ⟨h.a + (v 80).a, h.b + (v 80).b, h.c + (v 80).c, h.d + (v 80).d,
        h.e + (v 80).e, h.f + (v 80).f, h.g + (v 80).g, h.h + (v 80).h⟩

/-- Rules R141, R144, R171, R191, R192, R211 and R212: the tables have one entry per step; the rows of rule
R144's step table, with its 64 constants T[i] written out; the initial values of MD5 and SHA-1; those of SHA-256 and SHA-512 are the first bits of the fractional parts of the square
roots of the first eight primes, K512 those of the cube roots of the first 80 primes, and K256[t] is the
upper 32 bits of K512[t]. -/
def Obligations.ConstantTablesAgree : Prop :=
  let primes := (List.range 410).filter fun p => decide (2 ≤ p) && (List.range p).all fun q => q < 2 || p % q ≠ 0
  let squareRoot := fun (w p k : Nat) => ∃ n, n < 32 ∧ (n * 2 ^ w + k) ^ 2 ≤ p * 2 ^ (2 * w) ∧
    p * 2 ^ (2 * w) < (n * 2 ^ w + k + 1) ^ 2
  let cubeRoot := fun (w p k : Nat) => ∃ n, n < 32 ∧ (n * 2 ^ w + k) ^ 3 ≤ p * 2 ^ (3 * w) ∧
    p * 2 ^ (3 * w) < (n * 2 ^ w + k + 1) ^ 3
  md5Steps.length = stepCount .md5 ∧ k256.length = stepCount .sha256 ∧ k512.length = stepCount .sha512 ∧
  primes.length = 80 ∧
  md5Steps.map Md5Row.t =
    [0xD76AA478#32, 0xE8C7B756#32, 0x242070DB#32, 0xC1BDCEEE#32,
     0xF57C0FAF#32, 0x4787C62A#32, 0xA8304613#32, 0xFD469501#32,
     0x698098D8#32, 0x8B44F7AF#32, 0xFFFF5BB1#32, 0x895CD7BE#32,
     0x6B901122#32, 0xFD987193#32, 0xA679438E#32, 0x49B40821#32] ++
    [0xF61E2562#32, 0xC040B340#32, 0x265E5A51#32, 0xE9B6C7AA#32,
     0xD62F105D#32, 0x02441453#32, 0xD8A1E681#32, 0xE7D3FBC8#32,
     0x21E1CDE6#32, 0xC33707D6#32, 0xF4D50D87#32, 0x455A14ED#32,
     0xA9E3E905#32, 0xFCEFA3F8#32, 0x676F02D9#32, 0x8D2A4C8A#32] ++
    [0xFFFA3942#32, 0x8771F681#32, 0x6D9D6122#32, 0xFDE5380C#32,
     0xA4BEEA44#32, 0x4BDECFA9#32, 0xF6BB4B60#32, 0xBEBFBC70#32,
     0x289B7EC6#32, 0xEAA127FA#32, 0xD4EF3085#32, 0x04881D05#32,
     0xD9D4D039#32, 0xE6DB99E5#32, 0x1FA27CF8#32, 0xC4AC5665#32] ++
    [0xF4292244#32, 0x432AFF97#32, 0xAB9423A7#32, 0xFC93A039#32,
     0x655B59C3#32, 0x8F0CCC92#32, 0xFFEFF47D#32, 0x85845DD1#32,
     0x6FA87E4F#32, 0xFE2CE6E0#32, 0xA3014314#32, 0x4E0811A1#32,
     0xF7537E82#32, 0xBD3AF235#32, 0x2AD7D2BB#32, 0xEB86D391#32] ∧
  md5Steps.map Md5Row.k = List.range 16 ++ (List.range 16).map (fun i => (1 + 5 * (i + 16)) % 16) ++
    (List.range 16).map (fun i => (5 + 3 * (i + 32)) % 16) ++ (List.range 16).map (fun i => 7 * (i + 48) % 16) ∧
  md5Steps.map Md5Row.s = (List.replicate 4 [7, 12, 17, 22]).flatten ++ (List.replicate 4 [5, 9, 14, 20]).flatten ++
    (List.replicate 4 [4, 11, 16, 23]).flatten ++ (List.replicate 4 [6, 10, 15, 21]).flatten ∧
  md5Steps.map Md5Row.fn = List.replicate 16 .f ++ List.replicate 16 .g ++ List.replicate 16 .h ++
    List.replicate 16 .i ∧
  hashBytes (ivOf .md5) = [0x01#8, 0x23#8, 0x45#8, 0x67#8, 0x89#8, 0xAB#8, 0xCD#8, 0xEF#8,
    0xFE#8, 0xDC#8, 0xBA#8, 0x98#8, 0x76#8, 0x54#8, 0x32#8, 0x10#8] ∧
  hashWords (ivOf .sha1) = [0x67452301, 0xEFCDAB89, 0x98BADCFE, 0x10325476, 0xC3D2E1F0] ∧
  (∀ i, i < 8 → squareRoot 32 (primes.getD i 0) ((hashWords (ivOf .sha256)).getD i 0) ∧
    squareRoot 64 (primes.getD i 0) ((hashWords (ivOf .sha512)).getD i 0)) ∧
  (∀ t, t < 80 → cubeRoot 64 (primes.getD t 0) (k512.getD t 0#64).toNat) ∧
  (∀ t, t < 64 → (k512.getD t 0#64).toNat / 2 ^ 32 = (k256.getD t 0#32).toNat)

/-! ## Instances -/

/-- Rule R49: any interleaving of command streams to several instances gives each instance the state and
the responses it would have if its stream ran alone. -/
def Obligations.InterleavedStreamsDoNotInterfere : Prop :=
  ∀ (s : State) (cs : List (Nat × Instr × Bytes)) (k : Nat),
    ∃ t u, commands cs s = .next t ∧ commands (cs.filter fun c => decide (c.1 = k)) s = .next u ∧
      t.view k = u.view k

/-! ## The assembly syntax -/

/-- Rule R74: the command words and payloads of every row of the syntax table, the operands an assembler
refuses, and the text of a line: one line of every row, `x"hexdigits"` of every byte sequence, and `"text"` of
every ASCII text with its two escapes.  That a line may write the payload of any command as bytes
(`withPayload`) is the model's choice (log entry 8). -/
def Obligations.AssemblyLinesHaveTheirWords : Prop :=
  let chars := fun m : Bytes => m.map fun b => Char.ofNat b.toNat
  let escaped := fun m : Bytes => m.flatMap fun b =>
    if b = 0x22#8 ∨ b = 0x5C#8 then ['\\', Char.ofNat b.toNat] else [Char.ofNat b.toNat]
  (∀ m, assemble (.init .md5 m) = some [(0x01#32, m)] ∧ assemble (.init .sha1 m) = some [(0x11#32, m)] ∧
    assemble (.init .sha256 m) = some [(0x21#32, m)] ∧ assemble (.init .sha512 m) = some [(0x31#32, m)] ∧
    assemble (.update m) = some [(0x02#32, m)] ∧
    assemble (.compress .md5 m) = some [(0x05#32, m)] ∧ assemble (.compress .sha1 m) = some [(0x15#32, m)] ∧
    assemble (.compress .sha256 m) = some [(0x25#32, m)] ∧ assemble (.compress .sha512 m) = some [(0x35#32, m)]) ∧
  assemble .digest = some [(0x03#32, [])] ∧ assemble .hexdigest = some [(0x04#32, [])] ∧
  (∀ n, n < 2 ^ 128 →
    assemble (.pad .md5 n) = some [(0x06#32, pack 16 .big [n])] ∧
    assemble (.pad .sha1 n) = some [(0x16#32, pack 16 .big [n])] ∧
    assemble (.pad .sha256 n) = some [(0x26#32, pack 16 .big [n])] ∧
    assemble (.pad .sha512 n) = some [(0x36#32, pack 16 .big [n])]) ∧
  (∀ a n, a < 64 → n < 2 ^ 64 →
    assemble (.rotl .w32 a n) = some [(0x07#32 ||| BitVec.ofNat 32 a <<< 8, pack 8 .big [n])] ∧
    assemble (.rotl .w64 a n) = some [(0x87#32 ||| BitVec.ofNat 32 a <<< 8, pack 8 .big [n])] ∧
    assemble (.rotr .w32 a n) = some [(0x08#32 ||| BitVec.ofNat 32 a <<< 8, pack 8 .big [n])] ∧
    assemble (.rotr .w64 a n) = some [(0x88#32 ||| BitVec.ofNat 32 a <<< 8, pack 8 .big [n])]) ∧
  (∀ k ns m, k < 4 → (∀ n ∈ ns, n < 2 ^ 64) →
    assemble (.pack .little (2 ^ k) ns) = some [(0x49#32 ||| BitVec.ofNat 32 k <<< 14, pack 8 .big ns)] ∧
    assemble (.pack .big (2 ^ k) ns) = some [(0x09#32 ||| BitVec.ofNat 32 k <<< 14, pack 8 .big ns)] ∧
    assemble (.unpack .little (2 ^ k) m) = some [(0x4A#32 ||| BitVec.ofNat 32 k <<< 14, m)] ∧
    assemble (.unpack .big (2 ^ k) m) = some [(0x0A#32 ||| BitVec.ofNat 32 k <<< 14, m)]) ∧
  (∀ w a n, 64 ≤ a → assemble (.rotl w a n) = none ∧ assemble (.rotr w a n) = none) ∧
  (∀ o ws ns m, ws ∉ [1, 2, 4, 8] → assemble (.pack o ws ns) = none ∧ assemble (.unpack o ws m) = none) ∧
  (∀ i m, i.WellFormed → assemble (.withPayload i m) = some [(encode i, m)]) ∧
  (∀ m, assembleText (String.ofList ("UPDATE x\"".toList ++ chars (hex m) ++ "\"".toList)) = some [(0x02#32, m)]) ∧
  (∀ m, (∀ b ∈ m, b.toNat < 128) →
    assembleText (String.ofList ("UPDATE \"".toList ++ escaped m ++ "\"".toList)) = some [(0x02#32, m)]) ∧
  assembleText "INIT.SHA512 ; no bytes" = some [(0x31#32, [])] ∧
  assembleText "UPDATE" = some [(0x02#32, [])] ∧
  assembleText "DIGEST" = some [(0x03#32, [])] ∧ assembleText "HEXDIGEST" = some [(0x04#32, [])] ∧
  assembleText "DIGEST \"z\"" = some [(0x03#32, [0x7A#8])] ∧
  assembleText "COMPRESS.SHA1 x\"00fF\"" = some [(0x15#32, [0x00#8, 0xFF#8])] ∧
  assembleText "PAD.SHA256 55" = some [(0x26#32, pack 16 .big [55])] ∧
  assembleText "ROTL.W32 #31, 0xFFFFFFFF" = some [(0x1F07#32, pack 8 .big [0xFFFFFFFF])] ∧
  assembleText "ROTR.W64 #63, 1" = some [(0x3F88#32, pack 8 .big [1])] ∧
  assembleText "PACK.2.BE 0x0102, 0xFFFF" = some [(0x4009#32, pack 8 .big [0x0102, 0xFFFF])] ∧
  assembleText "UNPACK.8.LE \"ab\"" = some [(0xC04A#32, [0x61#8, 0x62#8])]

/-- Rule R75: the expansions of the pseudo-instructions. -/
def Obligations.PseudoInstructionsExpand : Prop :=
  ∀ (alg : Alg) (m : Bytes),
    assemble (.new alg) = assemble (.init alg []) ∧
    (∃ i d x, assemble (.init alg m) = some i ∧ assemble .digest = some d ∧ assemble .hexdigest = some x ∧
      assemble (.hash alg m) = some (i ++ d) ∧ assemble (.hexhash alg m) = some (i ++ x))
end

