-- ==== Sys2Proof/Laws/Words.lean ====
section
/-! SUPPORT. Lengths and small facts of the operand forms (rules R100 to R104, R120, R233, R236). -/

namespace Sys2Proof.Machine

@[simp] theorem packWord_length (ws : Nat) (order : Endian) (x : Nat) : (packWord ws order x).length = ws := by
  simp [packWord]

/-- Rule R102: `len(out) = k * ws`. -/
@[simp] theorem pack_length (ws : Nat) (order : Endian) (xs : List Nat) :
    (pack ws order xs).length = xs.length * ws := by
  induction xs with
  | nil => simp [pack]
  | cons x xs ih =>
    have h : pack ws order (x :: xs) = packWord ws order x ++ pack ws order xs := by simp [pack]
    simp [h, ih, Nat.succ_mul, Nat.add_comm]

@[simp] theorem zeroBytes_length (n : Nat) : (zeroBytes n).length = n := by simp [zeroBytes]

@[simp] theorem padding_length (T B L : Nat) (order : Endian) :
    (padding T B L order).length = 1 + padZeros T B L + L := by
  simp [padding]
  omega

@[simp] theorem unpackWords_length (ws : Nat) (order : Endian) (s : Bytes) :
    (unpackWords ws order s).length = s.length / ws := by simp [unpackWords]

/-- Rule R236: two characters per byte. -/
@[simp] theorem hex_length (s : Bytes) : (hex s).length = 2 * s.length := by
  induction s with
  | nil => rfl
  | cons b s ih =>
    have h : hex (b :: s) = hexByte b ++ hex s := by simp [hex]
    simp [h, ih, hexByte]
    omega

theorem blockSize_pos (alg : Alg) : 0 < blockSize alg := by cases alg <;> decide

/-- Rule R22: a compression keeps the algorithm. -/
@[simp] theorem algOf_compress (h : HashState) (b : Bytes) : algOf (compress h b) = algOf h := by
  cases h <;> simp only [compress, algOf]

@[simp] theorem algOf_ivOf (alg : Alg) : algOf (ivOf alg) = alg := by cases alg <;> rfl

@[simp] theorem foldBlock_alg (v : Engine) : v.foldBlock.alg = v.alg := by
  simp [Engine.foldBlock, Engine.alg]

end Sys2Proof.Machine
end

