-- ==== Sys2Proof/Laws/Assembler.lean ====
section
/-! SUPPORT. What the assembler reads from a quoted operand (rule R74): the bytes of `x"hexdigits"` and of
`"text"` with its two escapes, whatever follows the closing quote; and the tokens of an UPDATE line. -/

namespace Sys2Proof.Machine

/-- The character of an ASCII code. -/
theorem toNat_ofNat_byte (b : Byte) : (Char.ofNat b.toNat).toNat = b.toNat := by
  have h : b.toNat.isValidChar := Or.inl (by have := b.isLt; omega)
  simp [Char.ofNat, h, Char.ofNatAux, Char.toNat]

/-- Rule R236's digits are hexadecimal digits of the syntax. -/
theorem hexDigitValue_hexDigit : ∀ v, v < 16 → hexDigitValue (Char.ofNat (hexDigit v).toNat) = some v := by decide

theorem hexDigit_ne_quote : ∀ v, v < 16 → Char.ofNat (hexDigit v).toNat ≠ '"' := by decide

theorem hex_cons (b : Byte) (m : Bytes) : hex (b :: m) = hexDigit (b.toNat / 16) :: hexDigit (b.toNat % 16) :: hex m := by
  simp [hex, hexByte]

/-- Rule R74: `x"hexdigits"` stands for its bytes. -/
theorem quotedHex_hex (m : Bytes) (rest : List Char) :
    quotedHex ((hex m).map (fun b => Char.ofNat b.toNat) ++ '"' :: rest) = some (m, rest) := by
  induction m with
  | nil => rfl
  | cons b m ih =>
    have hb := b.isLt
    have hq := hexDigit_ne_quote (b.toNat / 16) (by omega)
    have hv : BitVec.ofNat 8 (16 * (b.toNat / 16) + b.toNat % 16) = b := by
      rw [Nat.div_add_mod]; simp
    rw [hex_cons, List.map_cons, List.map_cons, List.cons_append, List.cons_append, quotedHex, ih,
      hexDigitValue_hexDigit _ (by omega), hexDigitValue_hexDigit _ (by omega)]
    · simp [hv]
    · exact hq

/-- Rule R74: `"text"`, with `"` and `\` escaped, stands for its ASCII bytes. -/
theorem quotedText_escaped (m : Bytes) (hm : ∀ b ∈ m, b.toNat < 128) (rest : List Char) :
    quotedText ((m.flatMap fun b =>
      if b = 0x22#8 ∨ b = 0x5C#8 then ['\\', Char.ofNat b.toNat] else [Char.ofNat b.toNat]) ++ '"' :: rest) =
      some (m, rest) := by
  induction m with
  | nil => rfl
  | cons b m ih =>
    have hb := hm b (by simp)
    have hm' := ih fun c hc => hm c (by simp [hc])
    have hcode : ∀ c : Char, Char.ofNat b.toNat = c → b = BitVec.ofNat 8 c.toNat := by
      rintro c rfl
      rw [toNat_ofNat_byte]; simp
    by_cases h : b = 0x22#8 ∨ b = 0x5C#8
    · rcases h with rfl | rfl <;> simp [quotedText, hm']
    · have hq : Char.ofNat b.toNat ≠ '"' := fun e => h (.inl (hcode _ e))
      have hs : Char.ofNat b.toNat ≠ '\\' := fun e => h (.inr (hcode _ e))
      simp only [List.flatMap_cons, if_neg h, List.cons_append, List.nil_append]
      rw [quotedText]
      · simp [toNat_ofNat_byte, hb, hs, hm']
      · exact hq
      · rintro c cs e
        exact absurd e hs

/-! ## The tokens of an UPDATE line -/

theorem tokens_nil (fuel : Nat) : tokens fuel [] = some [] := by cases fuel <;> rfl

theorem tokens_update (fuel : Nat) (cs : List Char) :
    tokens (fuel + 2) ("UPDATE ".toList ++ cs) = (tokens fuel cs).map fun ts => .word "UPDATE".toList :: ts := rfl

theorem tokens_text (fuel : Nat) (cs : List Char) :
    tokens (fuel + 1) ('"' :: cs) =
      (quotedText cs).bind fun r => (tokens fuel r.2).map fun ts => .bytes r.1 :: ts := rfl

theorem tokens_hex (fuel : Nat) (cs : List Char) :
    tokens (fuel + 1) ('x' :: '"' :: cs) =
      (quotedHex cs).bind fun r => (tokens fuel r.2).map fun ts => .bytes r.1 :: ts := rfl

theorem parseLine_update {m : Bytes} {line : List Char}
    (h : tokens line.length line = some [.word "UPDATE".toList, .bytes m]) :
    parseLine line = some (some (.update m)) := by
  simp only [parseLine, h]
  rfl

end Sys2Proof.Machine
end

