-- ==== Sys2Proof/Laws/State.lean ====
section
/-! SUPPORT. One lemma per field per update of State, so that no proof unfolds a record update. -/

namespace Sys2Proof.Machine

variable (s : State) (n m : Nat) (x : Instance) (e : Option Engine) (st : Status) (d : Bytes) (err : Error)

/-! ## setInst -/

@[simp] theorem setInst_script : (s.setInst n x).script = s.script := rfl
@[simp] theorem setInst_pc : (s.setInst n x).pc = s.pc := rfl
@[simp] theorem setInst_active : (s.setInst n x).active = s.active := rfl
@[simp] theorem setInst_responses : (s.setInst n x).responses = s.responses := rfl
@[simp] theorem setInst_instances : (s.setInst n x).instances = storeInstance n x s.instances := rfl

/-! ## complete, respond and raise -/

@[simp] theorem complete_script : (s.complete e st d).script = s.script := rfl
@[simp] theorem complete_pc : (s.complete e st d).pc = s.pc := rfl
@[simp] theorem complete_active : (s.complete e st d).active = s.active := rfl
@[simp] theorem complete_responses :
    (s.complete e st d).responses = s.responses ++ [{ inst := s.active, status := st, data := d }] := rfl
@[simp] theorem complete_instances :
    (s.complete e st d).instances = storeInstance s.active { engine := e, port := none } s.instances := rfl

theorem respond_eq_complete : s.respond d = s.complete (s.engine s.active) .ok d := rfl
theorem raise_eq_complete : s.raise err = s.complete (s.engine s.active) (.error err) [] := rfl

/-! ## select -/

@[simp] theorem select_script : (s.select n).script = s.script := rfl
@[simp] theorem select_pc : (s.select n).pc = s.pc := rfl
@[simp] theorem select_active : (s.select n).active = n := rfl
@[simp] theorem select_instances : (s.select n).instances = s.instances := rfl
@[simp] theorem select_responses : (s.select n).responses = s.responses := rfl
@[simp] theorem select_inst : (s.select n).inst m = s.inst m := rfl
@[simp] theorem select_engine : (s.select n).engine m = s.engine m := rfl
@[simp] theorem select_port : (s.select n).port m = s.port m := rfl

/-! ## advance -/

@[simp] theorem advance_script : s.advance.script = s.script := rfl
@[simp] theorem advance_active : s.advance.active = s.active := rfl
@[simp] theorem advance_instances : s.advance.instances = s.instances := rfl
@[simp] theorem advance_responses : s.advance.responses = s.responses := rfl
@[simp] theorem advance_inst : s.advance.inst m = s.inst m := rfl
@[simp] theorem advance_engine : s.advance.engine m = s.engine m := rfl
@[simp] theorem advance_port : s.advance.port m = s.port m := rfl

theorem advance_pc_of_lt (h : s.pc < s.script.length) : s.advance.pc = s.pc + 1 := by
  simp [State.advance, h]

theorem advance_pc_of_le (h : s.script.length ≤ s.pc) : s.advance.pc = s.pc := by
  simp [State.advance, Nat.not_lt.mpr h]

/-! ## resetBlock -/

@[simp] theorem resetBlock_script : s.resetBlock.script = s.script := rfl
@[simp] theorem resetBlock_pc : s.resetBlock.pc = s.pc := rfl
@[simp] theorem resetBlock_active : s.resetBlock.active = 0 := rfl
@[simp] theorem resetBlock_instances : s.resetBlock.instances = [] := rfl
@[simp] theorem resetBlock_responses : s.resetBlock.responses = s.responses := rfl

end Sys2Proof.Machine
end

