-- ==== Sys2Proof/Laws/Ops.lean ====
section
/-! SUPPORT. What the shared operations do: the instances are a map in canonical form (log entry 4), and a
command ends in one way (rule R60).  Proofs cite these instead of unfolding the operations. -/

namespace Sys2Proof.Machine

/-! ## The instances -/

theorem isReset_iff (x : Instance) : isReset x = true ↔ x = Instance.reset := by
  cases x with
  | mk e p => cases e <;> cases p <;> simp [isReset, Instance.reset]

theorem instanceAt_insert_same (n : Nat) (x : Instance) (l : List (Nat × Instance)) :
    instanceAt (insertInstance n x l) n = x := by
  induction l with
  | nil => simp [insertInstance, instanceAt]
  | cons e l ih =>
    obtain ⟨k, y⟩ := e
    simp only [insertInstance]
    split
    · simp [instanceAt]
    · split
      · simp [instanceAt]
      · rename_i h
        simp [instanceAt, h, ih]

theorem instanceAt_insert_other {n m : Nat} (h : m ≠ n) (x : Instance) (l : List (Nat × Instance)) :
    instanceAt (insertInstance n x l) m = instanceAt l m := by
  induction l with
  | nil => simp [insertInstance, instanceAt, h]
  | cons e l ih =>
    obtain ⟨k, y⟩ := e
    simp only [insertInstance]
    split
    · simp [instanceAt, h]
    · split
      · rename_i hk
        subst hk
        simp [instanceAt, h]
      · simp [instanceAt, ih]

theorem instanceAt_filter_same (n : Nat) (l : List (Nat × Instance)) :
    instanceAt (l.filter fun e => decide (e.1 ≠ n)) n = Instance.reset := by
  induction l with
  | nil => rfl
  | cons e l ih =>
    obtain ⟨k, y⟩ := e
    by_cases hk : k = n
    · simpa [List.filter, hk] using ih
    · have hn : n ≠ k := fun h => hk h.symm
      simpa [List.filter, hk, instanceAt, hn] using ih

theorem instanceAt_filter_other {n m : Nat} (h : m ≠ n) (l : List (Nat × Instance)) :
    instanceAt (l.filter fun e => decide (e.1 ≠ n)) m = instanceAt l m := by
  induction l with
  | nil => rfl
  | cons e l ih =>
    obtain ⟨k, y⟩ := e
    by_cases hk : k = n
    · subst hk
      simpa [List.filter, instanceAt, h] using ih
    · by_cases hm : m = k
      · simp [List.filter, hk, instanceAt, hm]
      · simpa [List.filter, hk, instanceAt, hm] using ih

/-- A read after a write to the same instance gives the instance written. -/
@[simp] theorem instanceAt_store_same (n : Nat) (x : Instance) (l : List (Nat × Instance)) :
    instanceAt (storeInstance n x l) n = x := by
  unfold storeInstance
  split
  · rename_i h
    rw [instanceAt_filter_same, (isReset_iff x).1 h]
  · exact instanceAt_insert_same n x l

/-- A write leaves every other instance alone. -/
theorem instanceAt_store_other {n m : Nat} (h : m ≠ n) (x : Instance) (l : List (Nat × Instance)) :
    instanceAt (storeInstance n x l) m = instanceAt l m := by
  unfold storeInstance
  split
  · exact instanceAt_filter_other h l
  · exact instanceAt_insert_other h x l

theorem mem_insert_fst {n k : Nat} {x : Instance} {l : List (Nat × Instance)}
    (h : k ∈ (insertInstance n x l).map Prod.fst) : k = n ∨ k ∈ l.map Prod.fst := by
  induction l with
  | nil => simpa [insertInstance] using h
  | cons e l ih =>
    obtain ⟨j, y⟩ := e
    simp only [insertInstance] at h
    split at h
    · simpa using h
    · split at h
      · rename_i hn
        subst hn
        simp only [List.map_cons, List.mem_cons] at h ⊢
        tauto
      · simp only [List.map_cons, List.mem_cons] at h ⊢
        rcases h with h | h
        · exact .inr (.inl h)
        · rcases ih h with h | h
          · exact .inl h
          · exact .inr (.inr h)

theorem insertInstance_rising {n : Nat} {x : Instance} {l : List (Nat × Instance)}
    (h : (l.map Prod.fst).Pairwise (· < ·)) : ((insertInstance n x l).map Prod.fst).Pairwise (· < ·) := by
  induction l with
  | nil => simp [insertInstance]
  | cons e l ih =>
    obtain ⟨k, y⟩ := e
    simp only [List.map_cons, List.pairwise_cons] at h
    simp only [insertInstance]
    split
    · rename_i hn
      simp only [List.map_cons, List.pairwise_cons, List.mem_cons]
      refine ⟨?_, h.1, h.2⟩
      rintro j (rfl | hj)
      · exact hn
      · exact lt_trans hn (h.1 j hj)
    · split
      · rename_i hk
        subst hk
        simpa only [List.map_cons, List.pairwise_cons] using h
      · simp only [List.map_cons, List.pairwise_cons]
        refine ⟨fun j hj => ?_, ih h.2⟩
        rcases mem_insert_fst hj with rfl | hj
        · omega
        · exact h.1 j hj

theorem mem_insertInstance {n : Nat} {x : Instance} {l : List (Nat × Instance)} {e : Nat × Instance}
    (h : e ∈ insertInstance n x l) : e = (n, x) ∨ e ∈ l := by
  induction l with
  | nil => simpa [insertInstance] using h
  | cons e' l ih =>
    obtain ⟨k, y⟩ := e'
    simp only [insertInstance] at h
    split at h
    · simpa using h
    · split at h
      · simp only [List.mem_cons] at h ⊢
        tauto
      · simp only [List.mem_cons] at h ⊢
        rcases h with h | h
        · exact .inr (.inl h)
        · rcases ih h with h | h
          · exact .inl h
          · exact .inr (.inr h)

/-- Every write keeps the canonical form of the instances. -/
theorem storeInstance_canonical {n : Nat} {x : Instance} {l : List (Nat × Instance)} (h : Canonical l) :
    Canonical (storeInstance n x l) := by
  unfold storeInstance
  split
  · refine ⟨?_, fun e he => h.2 e (List.mem_filter.1 he).1⟩
    exact h.1.sublist ((List.filter_sublist (l := l)).map Prod.fst)
  · rename_i hx
    refine ⟨insertInstance_rising h.1, fun e he => ?_⟩
    rcases mem_insertInstance he with rfl | he
    · simpa using hx
    · exact h.2 e he

/-! ## Instances of a state -/

@[simp] theorem setInst_inst_same (s : State) (n : Nat) (x : Instance) : (s.setInst n x).inst n = x := by
  simp [State.inst]

theorem setInst_inst_other (s : State) {n m : Nat} (h : m ≠ n) (x : Instance) :
    (s.setInst n x).inst m = s.inst m := by
  simp [State.inst, instanceAt_store_other h]

@[simp] theorem complete_inst_active (s : State) (e : Option Engine) (st : Status) (d : Bytes) :
    (s.complete e st d).inst s.active = { engine := e, port := none } := by
  simp [State.inst]

/-- Rule R33: the end of a command touches no other instance. -/
theorem complete_inst_other (s : State) (e : Option Engine) (st : Status) (d : Bytes) {m : Nat}
    (h : m ≠ s.active) : (s.complete e st d).inst m = s.inst m := by
  simp [State.inst, instanceAt_store_other h]

@[simp] theorem complete_engine_active (s : State) (e : Option Engine) (st : Status) (d : Bytes) :
    (s.complete e st d).engine s.active = e := by
  simp [State.engine]

@[simp] theorem complete_port_active (s : State) (e : Option Engine) (st : Status) (d : Bytes) :
    (s.complete e st d).port s.active = none := by
  simp [State.port]

/-! ## What performing a command can do -/

/-- With a command in progress, `perform` ends it: with an error and nothing else, or with the engine and
DATA it computes. -/
theorem perform_cases {s : State} {r : Request} (h : s.Performing r)
    (f : Option Engine → Bytes → Except Error (Option Engine × Bytes)) :
    (∃ e, f (s.engine s.active) r.payload = .error e ∧ s.perform f = .next (s.raise e)) ∨
    (∃ e d, f (s.engine s.active) r.payload = .ok (e, d) ∧ s.perform f = .next (s.complete e .ok d)) := by
  cases hf : f (s.engine s.active) r.payload with
  | error e => exact .inl ⟨e, rfl, by simp [State.perform, h, hf]⟩
  | ok p => exact .inr ⟨p.1, p.2, rfl, by simp [State.perform, h, hf]⟩

theorem performPure_ok {s : State} {r : Request} {f : Bytes → Except Error Bytes} {d : Bytes}
    (h : s.Performing r) (hf : f r.payload = .ok d) : s.performPure f = .next (s.respond d) := by
  simp [State.performPure, State.perform, h, hf, Except.map, State.respond]

theorem performPure_error {s : State} {r : Request} {f : Bytes → Except Error Bytes} {e : Error}
    (h : s.Performing r) (hf : f r.payload = .error e) : s.performPure f = .next (s.raise e) := by
  simp [State.performPure, State.perform, h, hf, Except.map]

theorem performRead_ok {s : State} {r : Request} {f : Engine → Bytes → Except Error Bytes} {v : Engine}
    {d : Bytes} (h : s.Performing r) (hv : s.engine s.active = some v) (hf : f v r.payload = .ok d) :
    s.performRead f = .next (s.respond d) := by
  simp [State.performRead, State.perform, h, hv, hf, Except.map, Except.bind, requireValid, State.respond]

theorem performRead_error {s : State} {r : Request} {f : Engine → Bytes → Except Error Bytes} {v : Engine}
    {e : Error} (h : s.Performing r) (hv : s.engine s.active = some v) (hf : f v r.payload = .error e) :
    s.performRead f = .next (s.raise e) := by
  simp [State.performRead, State.perform, h, hv, hf, Except.map, Except.bind, requireValid]

/-- Rule R21: an engine command that reads an uninitialised engine raises NOT_INITIALIZED. -/
theorem performRead_invalid {s : State} {r : Request} {f : Engine → Bytes → Except Error Bytes}
    (h : s.Performing r) (hv : s.engine s.active = none) :
    s.performRead f = .next (s.raise .notInitialized) := by
  simp [State.performRead, State.perform, h, hv, Except.bind, requireValid]

theorem performWrite_ok {s : State} {r : Request} {f : Option Engine → Bytes → Except Error Engine}
    {v : Engine} (h : s.Performing r) (hf : f (s.engine s.active) r.payload = .ok v) :
    s.performWrite f = .next (s.complete (some v) .ok []) := by
  simp [State.performWrite, State.perform, h, hf, Except.map]

theorem performWrite_error {s : State} {r : Request} {f : Option Engine → Bytes → Except Error Engine}
    {e : Error} (h : s.Performing r) (hf : f (s.engine s.active) r.payload = .error e) :
    s.performWrite f = .next (s.raise e) := by
  simp [State.performWrite, State.perform, h, hf, Except.map]

/-! ## Presenting a command -/

theorem accept_busy {s : State} {n : Nat} {r q : Request} (hn : n < Config.numInstances)
    (h : s.port n = some q) : s.accept n r = .refused (.overlappingCommand n) := by
  simp [State.accept, Nat.not_le.mpr hn, h]

theorem accept_idle {s : State} {n : Nat} {r : Request} (hn : n < Config.numInstances)
    (h : s.port n = none) :
    s.accept n r = .next (s.advance.setInst n { engine := s.engine n, port := some r }) := by
  simp [State.accept, Nat.not_le.mpr hn, h]

end Sys2Proof.Machine
end

