-- ==== Sys2Proof/Laws/Exec.lean ====
section
/-! SUPPORT. What `exec` and a performing step can do, said once: every command is one use of
`State.perform`, so it ends in exactly one `State.complete` (rules R60, R261). -/

namespace Sys2Proof.Machine

/-- The meaning of every command is `State.perform` of a function of the engine and PAYLOAD. -/
theorem exec_eq_perform (i : Instr) :
    ∃ f : Option Engine → Bytes → Except Error (Option Engine × Bytes), ∀ s, exec i s = s.perform f := by
  have pure (f : Bytes → Except Error Bytes) : ∃ g, ∀ s : State, s.performPure f = s.perform g :=
    ⟨fun e p => (f p).map fun data => (e, data), fun _ => rfl⟩
  have read (f : Engine → Bytes → Except Error Bytes) : ∃ g, ∀ s : State, s.performRead f = s.perform g :=
    ⟨fun e p => (requireValid e).bind fun v => (f v p).map fun data => (e, data), fun _ => rfl⟩
  have write (f : Option Engine → Bytes → Except Error Engine) :
      ∃ g, ∀ s : State, s.performWrite f = s.perform g :=
    ⟨fun e p => (f e p).map fun v => (some v, []), fun _ => rfl⟩
  cases i with
  | init alg => exact write fun _ m => .ok (updateBody (freshEngine alg) m)
  | update => exact write fun e m => (requireValid e).map fun v => updateBody v m
  | digest => exact read _
  | hexdigest => exact read _
  | compressMd5 => exact pure _
  | compressSha1 => exact pure _
  | compressSha256 => exact pure _
  | compressSha512 => exact pure _
  | pad alg => exact pure (padData alg)
  | rotl w amt => exact pure (rotlData w amt)
  | rotr w amt => exact pure (rotrData w amt)
  | pack order wsc => exact pure (packData order wsc)
  | unpack order wsc => exact pure (unpackData order wsc)

/-- With a command in progress, `exec` ends it; where the status is an error, DATA is empty and the engine
is as before (rule R261). -/
theorem exec_cases (i : Instr) {s : State} {r : Request} (h : s.Performing r) :
    ∃ e st d, exec i s = .next (s.complete e st d) ∧ (st ≠ .ok → d = [] ∧ e = s.engine s.active) := by
  obtain ⟨f, hf⟩ := exec_eq_perform i
  rcases perform_cases h f with ⟨e, -, he⟩ | ⟨e, d, -, he⟩
  · exact ⟨_, _, _, (hf s).trans he, fun _ => ⟨rfl, rfl⟩⟩
  · exact ⟨_, _, _, (hf s).trans he, fun hst => absurd rfl hst⟩

/-- With no command in progress on its instance, `performCommand` only moves past the host's action. -/
theorem performCommand_idle {s : State} {n : Nat} (h : s.port n = none) :
    performCommand s n = .next s.advance := by
  simp [performCommand, h]

theorem performCommand_illegal {s : State} {n : Nat} {r : Request} {e : DecodeError} (h : s.port n = some r)
    (hd : decode r.cmd = .error e) :
    performCommand s n = .next ((s.advance.select n).raise .illegalCommand) := by
  simp [performCommand, h, hd]

theorem performCommand_decoded {s : State} {n : Nat} {r : Request} {i : Instr} (h : s.port n = some r)
    (hd : decode r.cmd = .ok i) : performCommand s n = exec i (s.advance.select n) := by
  simp [performCommand, h, hd]

theorem step_of_perform {s : State} {n : Nat} (h : s.nextMove = .perform n) : step s = performCommand s n := by
  simp [step, h]

/-- What a step is, by the host's next action. -/
theorem step_cases (s : State) :
    (∃ n cmd p, s.script[s.pc]? = some (.present n cmd p) ∧
      step s = s.accept n { cmd := cmd, payload := p }) ∨
    (∃ n, s.script[s.pc]? = some (.await n) ∧ step s = performCommand s n) ∨
    (s.script[s.pc]? = some .reset ∧ step s = .next s.advance.resetBlock) ∨
    (s.script[s.pc]? = none ∧ ∃ n, firstBusy s.instances = some n ∧ step s = performCommand s n) ∨
    (s.script[s.pc]? = none ∧ firstBusy s.instances = none ∧ step s = .next s) := by
  cases h : s.script[s.pc]? with
  | none =>
    cases hb : firstBusy s.instances with
    | none => simp [step, State.nextMove, h, hb]
    | some n => simp [step, State.nextMove, h, hb]
  | some a => cases a <;> simp [step, State.nextMove, h]

end Sys2Proof.Machine
end

