-- ==== Sys2Proof/Laws/PerInstr.lean ====
section
/-! SUPPORT. Statements about every command as syntax, one lemma per constructor of Instr. -/

/-! ## ReservedHalfIsZero

Rule R61: RSV, the upper half of the command word, must be 0. -/

namespace Sys2Proof.Laws.ReservedHalfIsZero

/-- The command word of a well-formed command has its reserved half clear. -/
def Statement (i : Instr) : Prop := i.WellFormed → encode i &&& 0xFFFF0000#32 = 0#32

theorem amount_reserved (w : RotWidth) (op : Word32) (hop : op &&& 0xFFFF0000#32 = 0#32) :
    ∀ amt, amountOk amt = true → (op ||| fieldAt w.code 7 ||| fieldAt amt 8) &&& 0xFFFF0000#32 = 0#32 := by
  have h : ∀ amt, amt < 64 → (fieldAt w.code 7 ||| fieldAt amt 8) &&& 0xFFFF0000#32 = 0#32 := by
    cases w <;> decide
  intro amt ha
  have ha' := h amt (by simpa [amountOk] using ha)
  rw [BitVec.or_assoc, BitVec.and_or_distrib_right, hop, ha']
  rfl

theorem size_reserved (o : Endian) (op : Word32) (hop : op &&& 0xFFFF0000#32 = 0#32) :
    ∀ wsc, wordSizeOk wsc = true → (op ||| fieldAt o.code 6 ||| fieldAt wsc 14) &&& 0xFFFF0000#32 = 0#32 := by
  have h : ∀ wsc, wsc < 4 → (fieldAt o.code 6 ||| fieldAt wsc 14) &&& 0xFFFF0000#32 = 0#32 := by
    cases o <;> decide
  intro wsc ha
  have ha' := h wsc (by simpa [wordSizeOk] using ha)
  rw [BitVec.or_assoc, BitVec.and_or_distrib_right, hop, ha']
  rfl

theorem init (alg : Alg) : Statement (.init alg) := by cases alg <;> intro _ <;> decide
theorem update : Statement .update := by intro _; decide
theorem digest : Statement .digest := by intro _; decide
theorem hexdigest : Statement .hexdigest := by intro _; decide
theorem compressMd5 : Statement .compressMd5 := by intro _; decide
theorem compressSha1 : Statement .compressSha1 := by intro _; decide
theorem compressSha256 : Statement .compressSha256 := by intro _; decide
theorem compressSha512 : Statement .compressSha512 := by intro _; decide
theorem pad (alg : Alg) : Statement (.pad alg) := by cases alg <;> intro _ <;> decide
theorem rotl (w : RotWidth) (amt : Nat) : Statement (.rotl w amt) := amount_reserved w _ (by decide) amt
theorem rotr (w : RotWidth) (amt : Nat) : Statement (.rotr w amt) := amount_reserved w _ (by decide) amt
theorem pack (order : Endian) (wsc : Nat) : Statement (.pack order wsc) := size_reserved order _ (by decide) wsc
theorem unpack (order : Endian) (wsc : Nat) : Statement (.unpack order wsc) :=
  size_reserved order _ (by decide) wsc

end Sys2Proof.Laws.ReservedHalfIsZero
end

