-- ==== Sys2Proof/Tests/Slice0.lean ====
section
/-! SUPPORT. Tests.  Every expected result is the spec's own: the encodings of spec/30_encoding.md rules R71 and
R74 written out bit by bit, and the vectors of spec/95_test_vectors.md, named in each comment.  At the end
stand the witnesses that the hypotheses of the statements can be met. -/

namespace Sys2Proof.Tests

open Sys2Proof.Machine

/-! ## Helpers -/

/-- The bytes of a hexadecimal string. -/
def hexBytes (s : String) : Bytes := ((quotedHex (s.toList ++ ['"'])).map Prod.fst).getD []

/-- Instance 0 with an engine and a command in progress, whose response the host awaits. -/
def performing (e : Option Engine) (cmd : Word32) (p : Bytes) : State :=
  { State.reset with
    script := [.await 0]
    instances := [(0, { engine := e, port := some { cmd := cmd, payload := p } })] }

/-- STATUS and DATA of the last response. -/
def answer (o : Outcome) : Option (BitVec 8 × Bytes) :=
  match o with
  | .next t => t.responses.getLast?.map fun r => (statusCode r.status, r.data)
  | .fault _ => none
  | .refused _ => none

/-- The engine of instance 0 after a step. -/
def engineAfter (o : Outcome) : Option Engine :=
  match o with
  | .next t => t.engine 0
  | .fault _ => none
  | .refused _ => none

/-! ## WellFormed refuses an operand that does not fit its field -/

theorem test_wellFormed_amount_63 : (Instr.rotl .w32 63).wellFormed = true := by decide
theorem test_wellFormed_rotl_amount_64 : (Instr.rotl .w32 64).wellFormed = false := by decide
theorem test_wellFormed_rotr_amount_64 : (Instr.rotr .w64 64).wellFormed = false := by decide
theorem test_wellFormed_pack_size_code_4 : (Instr.pack .big 4).wellFormed = false := by decide
theorem test_wellFormed_unpack_size_code_4 : (Instr.unpack .little 4).wellFormed = false := by decide

/-! ## Decoding, one word per constructor: RSV WS AMT W64 LE ALG OP (rule R61) -/

theorem test_decode_init : decodeTableWord 32 0b00000000000000000000000000100001 = some (.init .sha256) := by decide

theorem test_decode_update : decodeTableWord 32 0b00000000000000000000000000000010 = some (.update) := by decide

theorem test_decode_digest : decodeTableWord 32 0b00000000000000000000000000000011 = some (.digest) := by decide

theorem test_decode_hexdigest : decodeTableWord 32 0b00000000000000000000000000000100 = some (.hexdigest) := by decide

theorem test_decode_compressMd5 : decodeTableWord 32 0b00000000000000000000000000000101 = some (.compressMd5) := by decide

theorem test_decode_compressSha1 : decodeTableWord 32 0b00000000000000000000000000010101 = some (.compressSha1) := by decide

theorem test_decode_compressSha256 : decodeTableWord 32 0b00000000000000000000000000100101 = some (.compressSha256) := by decide

theorem test_decode_compressSha512 : decodeTableWord 32 0b00000000000000000000000000110101 = some (.compressSha512) := by decide

theorem test_decode_pad : decodeTableWord 32 0b00000000000000000000000000010110 = some (.pad .sha1) := by decide

theorem test_decode_rotl : decodeTableWord 32 0b00000000000000000010011010000111 = some (.rotl .w64 38) := by decide

theorem test_decode_rotr : decodeTableWord 32 0b00000000000000000010000100001000 = some (.rotr .w32 33) := by decide

theorem test_decode_pack : decodeTableWord 32 0b00000000000000001000000001001001 = some (.pack .little 2) := by decide

theorem test_decode_unpack : decodeTableWord 32 0b00000000000000000100000000001010 = some (.unpack .big 1) := by decide

/-- V37. -/
theorem test_reject_opcode_0 : decode 0x00000000#32 = .error (.reservedOpcode 0) := by decide

/-- V37a. -/
theorem test_reject_opcode_B : decode 0x0000000B#32 = .error (.reservedOpcode 11) := by decide

/-- V37b. -/
theorem test_reject_opcode_F : decode 0x0000000F#32 = .error (.reservedOpcode 15) := by decide

/-- V37c. -/
theorem test_reject_init_with_LE : decode 0x00000041#32 = .error (.reservedBits 1) := by decide

/-- V37d. -/
theorem test_reject_update_with_ALG : decode 0x00000012#32 = .error (.reservedBits 2) := by decide

/-- V37e. -/
theorem test_reject_rotl_with_RSV : decode 0x00010007#32 = .error (.reservedBits 7) := by decide

/-- V37f. -/
theorem test_reject_compress_with_LE : decode 0x00000045#32 = .error (.reservedBits 5) := by decide

/-- V37g. -/
theorem test_reject_update_with_W64 : decode 0x00000082#32 = .error (.reservedBits 2) := by decide


/-! ## The utilities: V3 to V18a -/

/-- V6. -/
theorem test_rotl_w64_by_63 :
    answer (step (performing none 0x00003F87#32 (hexBytes "8000000000000001"))) = some (0#8, hexBytes "c000000000000000") := by
  decide

/-- V9. -/
theorem test_rotl_operand_too_large :
    answer (step (performing none 0x00000407#32 (hexBytes "0000000100000000"))) = some (4#8, hexBytes "") := by
  decide

/-- V10a. -/
theorem test_rotr_w32_by_33 :
    answer (step (performing none 0x00002108#32 (hexBytes "0000000080000001"))) = some (0#8, hexBytes "00000000c0000000") := by
  decide

/-- V8. -/
theorem test_rotr_w64_by_1 :
    answer (step (performing none 0x00000188#32 (hexBytes "0000000000000001"))) = some (0#8, hexBytes "8000000000000000") := by
  decide

/-- V12. -/
theorem test_pack_two_words_big :
    answer (step (performing none 0x00004009#32 (hexBytes "0000000000000102000000000000ffff"))) = some (0#8, hexBytes "0102ffff") := by
  decide

/-- V13. -/
theorem test_pack_word_too_large :
    answer (step (performing none 0x00000049#32 (hexBytes "0000000000000100"))) = some (4#8, hexBytes "") := by
  decide

/-- V16. -/
theorem test_unpack_little_eight :
    answer (step (performing none 0x0000C04A#32 (hexBytes "0102030405060708"))) = some (0#8, hexBytes "0807060504030201") := by
  decide

/-- V17. -/
theorem test_unpack_partial_word :
    answer (step (performing none 0x0000804A#32 (hexBytes "010203"))) = some (2#8, hexBytes "") := by
  decide


/-! ## Padding: V20, V29b -/

/-- V20. -/
theorem test_pad_md5_55 :
    answer (step (performing none 0x00000006#32 (hexBytes "00000000000000000000000000000037"))) = some (0#8, hexBytes "80b801000000000000") := by
  decide

/-- V29b. -/
theorem test_pad_sha512_high_length_word :
    answer (step (performing none 0x00000036#32 (hexBytes "00000000000000002000000000000000"))) = some (0#8, hexBytes "8000000000000000000000000000000000000000000000000000000000000000000000000000000000000000000000000000000000000000000000000000000000000000000000000000000000000000000000000000000000000000000000000000000000000000000000000000000000000000000000010000000000000000") := by
  decide +kernel


/-! ## Compression: V21 to V26a -/

/-- V25a. -/
theorem test_compressMd5_all_ones :
    answer (step (performing none 0x00000005#32 (hexBytes "ffffffffffffffffffffffffffffffffffffffffffffffffffffffffffffffffffffffffffffffffffffffffffffffffffffffffffffffffffffffffffffffffffffffffffffffffffffffffffffffff"))) = some (0#8, hexBytes "2991ba6c2ad1ff29d3b79b8bc1a3a0a9") := by
  decide +kernel

/-- V26. -/
theorem test_compressMd5_partial_block :
    answer (step (performing none 0x00000005#32 (hexBytes "00000000000000000000000000000000000000000000000000000000000000000000000000000000000000000000000000000000000000000000000000000000000000000000000000000000000000"))) = some (4#8, hexBytes "") := by
  decide +kernel

/-- V21. -/
theorem test_compressSha1_abc :
    answer (step (performing none 0x00000015#32 (hexBytes "67452301efcdab8998badcfe10325476c3d2e1f061626380000000000000000000000000000000000000000000000000000000000000000000000000000000000000000000000000000000000000000000000018"))) = some (0#8, hexBytes "a9993e364706816aba3e25717850c26c9cd0d89d") := by
  decide +kernel

/-- V22. -/
theorem test_compressSha256_abc :
    answer (step (performing none 0x00000025#32 (hexBytes "6a09e667bb67ae853c6ef372a54ff53a510e527f9b05688c1f83d9ab5be0cd1961626380000000000000000000000000000000000000000000000000000000000000000000000000000000000000000000000000000000000000000000000018"))) = some (0#8, hexBytes "ba7816bf8f01cfea414140de5dae2223b00361a396177a9cb410ff61f20015ad") := by
  decide +kernel

/-- V23. -/
theorem test_compressSha512_abc :
    answer (step (performing none 0x00000035#32 (hexBytes "6a09e667f3bcc908bb67ae8584caa73b3c6ef372fe94f82ba54ff53a5f1d36f1510e527fade682d19b05688c2b3e6c1f1f83d9abfb41bd6b5be0cd19137e21796162638000000000000000000000000000000000000000000000000000000000000000000000000000000000000000000000000000000000000000000000000000000000000000000000000000000000000000000000000000000000000000000000000000000000000000000000000000000000000000000000000000000018"))) = some (0#8, hexBytes "ddaf35a193617abacc417349ae20413112e6fa4e89a97ea20a9eeee64b55d39a2192992a274fc1a836ba3c23a3feebbd454d4423643ce80e2a9ac94fa54ca49f") := by
  decide +kernel

/-- V26a. -/
theorem test_compressSha512_half_block :
    answer (step (performing none 0x00000035#32 (hexBytes "0000000000000000000000000000000000000000000000000000000000000000000000000000000000000000000000000000000000000000000000000000000000000000000000000000000000000000000000000000000000000000000000000000000000000000000000000000000000000000000000000000000000000000"))) = some (4#8, hexBytes "") := by
  decide +kernel


/-- V30: the working variables after step 0 of the MD5 compression of the padded empty message. -/
theorem test_md5_first_step :
    md5Step (md5Message (0x80#8 :: zeroBytes 63)) md5Iv ⟨.f, 0, 7, 0xD76AA478#32⟩ =
      ⟨0x10325476#32, 0xA5202774#32, 0xEFCDAB89#32, 0x98BADCFE#32⟩ := by
  decide +kernel

/-! ## The engine: V1, V2, V31 to V36 -/

/-- V38a and rule R232: INIT.MD5 "abc" from reset. -/
theorem test_init_md5_abc :
    engineAfter (step (performing none 0x00000001#32 (hexBytes "616263"))) =
      some { h := .md5 md5Iv, buf := hexBytes "616263", blocks := 0 } := by
  decide

/-- V32: INIT.MD5 with 64 bytes of 0x61. -/
theorem test_init_md5_one_block :
    engineAfter (step (performing none 0x00000001#32 (List.replicate 64 0x61#8))) =
      some { h := .md5 ⟨0x89D4FF56#32, 0x125CD962#32, 0x69CADE33#32, 0x0033E325#32⟩, buf := [], blocks := 1 } := by
  decide +kernel

/-- V32a: UPDATE "a" after 63 bytes. -/
theorem test_update_fills_block :
    engineAfter (step (performing (some { h := .md5 md5Iv, buf := List.replicate 63 0x61#8, blocks := 0 })
      0x00000002#32 [0x61#8])) =
      some { h := .md5 ⟨0x89D4FF56#32, 0x125CD962#32, 0x69CADE33#32, 0x0033E325#32⟩, buf := [], blocks := 1 } := by
  decide +kernel

/-- V35. -/
theorem test_update_not_initialized :
    answer (step (performing none 0x00000002#32 (hexBytes "616263"))) = some (3#8, []) := by decide

/-- V31: SHA-512 of 112 bytes of 0x61, whose tail needs two blocks. -/
theorem test_digest_sha512_two_blocks :
    answer (step (performing (some { h := .sha512 sha512Iv, buf := List.replicate 112 0x61#8, blocks := 0 })
      0x00000003#32 [])) = some (0#8, hexBytes "c01d080efd492776a1c43bd23dd99d0a2e626d481e16782e75d54c2503b5dc32bd05f0f1ba33e568b88fd2d970929b719ecbb152f58f130a407c8830604b70ca") := by
  decide +kernel

/-- V36. -/
theorem test_digest_with_payload :
    answer (step (performing (some (freshEngine .md5)) 0x00000003#32 [0x78#8])) = some (4#8, []) := by decide

/-- V1: HEXDIGEST of the empty MD5 message. -/
theorem test_hexdigest_md5_empty :
    answer (step (performing (some (freshEngine .md5)) 0x00000004#32 [])) =
      some (0#8, hexBytes "6434316438636439386630306232303465393830303939386563663834323765") := by
  decide +kernel

/-- V35b: NOT_INITIALIZED has priority over the payload check. -/
theorem test_hexdigest_not_initialized_first :
    answer (step (performing none 0x00000004#32 [0x78#8])) = some (3#8, []) := by decide

/-- V37g: ILLEGAL_COMMAND has priority over NOT_INITIALIZED. -/
theorem test_illegal_word_first :
    answer (step (performing none 0x00000082#32 [])) = some (1#8, []) := by decide


/-! ## Text assembly (rule R74) -/

/-- V3. -/
theorem test_assemble_rotl :
    assembleText "ROTL.W32 #8, 0x12345678 ; a comment" = some [(0x00000807#32, hexBytes "0000000012345678")] := by
  decide +kernel

/-- V15. -/
theorem test_assemble_unpack :
    assembleText "UNPACK.4.BE x\"0102030405060708\"" = some [(0x0000800A#32, hexBytes "0102030405060708")] := by
  decide +kernel

/-- Rules R74 and R75: the escapes of a quoted text, and HASH. -/
theorem test_assemble_hash :
    assembleText "HASH.MD5 \"a\\\"b\"" = some [(0x00000001#32, hexBytes "612262"), (0x00000003#32, [])] := by
  decide +kernel

/-- P4 row 5 and V10: payload bytes after DIGEST and after a rotate amount (log entry 8). -/
theorem test_assemble_payload :
    assembleText "DIGEST \"z\"" = some [(0x00000003#32, hexBytes "7a")] ∧
    assembleText "ROTL.W32 #1, x\"12345678\"" = some [(0x00000107#32, hexBytes "12345678")] := by decide +kernel

/-- V14, V14b and V29c: PACK with no operands, and the payloads of PACK and PAD written as bytes. -/
theorem test_assemble_payload_lengths :
    assembleText "PACK.8.BE" = some [(0x0000C009#32, [])] ∧
    assembleText "PACK.4.BE x\"00000000000000\"" = some [(0x00008009#32, zeroBytes 7)] ∧
    assembleText "PAD.MD5 x\"0000000000000003\"" = some [(0x00000006#32, hexBytes "0000000000000003")] := by
  decide +kernel

/-- Rule R74: an amount above 63 and a word size outside 1, 2, 4 and 8 are refused. -/
theorem test_assemble_refuses :
    assembleText "ROTR.W64 #64, 1" = none ∧ assembleText "ROTL.W32 #64, \"z\"" = none ∧
    assembleText "PACK.3.LE 1" = none := by decide +kernel

/-! ## The host's actions -/

/-- Rule R296: presenting to an idle instance; instance 0 always exists. -/
theorem test_present_then_busy :
    ({ State.reset with script := [.present 0 0x00000003#32 []] } : State).nextMove =
      .accept 0 { cmd := 0x00000003#32, payload := [] } := by decide

/-- Rule R290: the reset event clears an initialised instance and abandons its command. -/
theorem test_reset_abandons :
    (match step { performing (some (freshEngine .md5)) 0x00000003#32 [] with script := [.reset] } with
      | .next t => t.instances == [] && t.responses == []
      | .fault _ => false
      | .refused _ => false) = true := by decide

/-- Log entry 5: a word placed by `withFetchWord` after reset is the one the next step runs. -/
theorem test_fetched_word_runs :
    answer (step (State.reset.withFetchWord 32 0x00000031)) = some (0#8, []) := by decide


/-! ## Witnesses: the hypotheses of every statement that has some can be met, clause by clause -/

/-- A command in progress on instance 0. -/
theorem witness_performing (e : Option Engine) (cmd : Word32) (p : Bytes) :
    (performing e cmd p).Performing { cmd := cmd, payload := p } := rfl

/-- DecodeOfEncodeIsTheCommand. -/
theorem witness_wellFormed :
    (Instr.rotl .w64 63).WellFormed ∧ (Instr.rotr .w32 63).WellFormed ∧ (Instr.pack .little 3).WellFormed ∧
      (Instr.unpack .big 0).WellFormed := by decide

/-- EncodeOfDecodeIsTheWord and DecodeAgreesWithOpcodeTable, both clauses. -/
theorem witness_words : decode 0x0000C04A#32 = .ok (.unpack .little 3) ∧
    decode 0x0000000B#32 = .error (.reservedOpcode 11) := by decide

/-- StepRunsDecodedCommand, awaiting. -/
theorem witness_step_awaited :
    (performing none 0x00000031#32 []).script[(performing none 0x00000031#32 []).pc]? = some (.await 0) ∧
    (performing none 0x00000031#32 []).port 0 = some { cmd := 0x00000031#32, payload := [] } ∧
    decode 0x00000031#32 = .ok (.init .sha512) := by decide

/-- StepRunsDecodedCommand, with no action left, and CommandsInProgressAllEnd's second hypothesis. -/
theorem witness_step_unawaited :
    ({ performing none 0x00000031#32 [] with script := [] } : State).script[0]? = none ∧
    firstBusy (performing none 0x00000031#32 []).instances = some 0 ∧
    ({ performing none 0x00000031#32 [] with script := [] } : State).script.length ≤ 0 := by decide

/-- FetchedWordRunsNext. -/
theorem witness_fetched_word : decodeTableWord 32 0x00000031 = some (.init .sha512) := by decide

/-- IllegalWordRaisesIllegalCommand, and FailedCommandChangesNothing's first two hypotheses. -/
theorem witness_illegal_word :
    (performing none 0x00000000#32 []).nextMove = .perform 0 ∧
    (performing none 0x00000000#32 []).port 0 = some { cmd := 0x00000000#32, payload := [] } ∧
    ∀ row ∈ opcodeTable, row.selects 0x00000000#32 = false := by decide

/-- FailedCommandChangesNothing: a step whose response has a non-zero STATUS. -/
theorem witness_failed_status :
    step (performing none 0x00000000#32 []) =
      .next (((performing none 0x00000000#32 []).advance.select 0).raise .illegalCommand) ∧
    statusCode (.error .illegalCommand) ≠ 0#8 := ⟨rfl, by decide⟩

theorem numInstances_pos : 0 < Config.numInstances := Nat.succ_pos _

/-- PresentedCommandIsInProgress. -/
theorem witness_present_idle :
    ({ State.reset with script := [.present 0 0x00000003#32 []] } : State).script[0]? =
      some (.present 0 0x00000003#32 []) ∧
    0 < Config.numInstances ∧ State.reset.port 0 = none :=
  ⟨by decide, numInstances_pos, by decide⟩

/-- OverlappingCommandIsRefused. -/
theorem witness_present_busy :
    ({ performing none 0x00000003#32 [] with script := [.present 0 0x00000003#32 []] } : State).script[0]? =
      some (.present 0 0x00000003#32 []) ∧
    0 < Config.numInstances ∧
    (performing none 0x00000003#32 []).port 0 = some { cmd := 0x00000003#32, payload := [] } :=
  ⟨by decide, numInstances_pos, by decide⟩

/-- OnlyHostMistakesAreRefused, second clause: the first instance number the platform does not have. -/
theorem witness_absent :
    ({ State.reset with script := [.present Config.numInstances 0x00000003#32 []] } : State).script[0]? =
      some (.present Config.numInstances 0x00000003#32 []) ∧
    Config.numInstances ≤ Config.numInstances := ⟨rfl, le_refl _⟩

/-- ExecNeedsACommandInProgress. -/
theorem witness_nothing_in_progress : State.reset.port State.reset.active = none := by decide

/-- ResetEventResetsEveryInstance. -/
theorem witness_reset_event :
    ({ State.reset with script := [.reset] } : State).script[0]? = some .reset := by decide

/-- The state of the witnesses below meets the invariant. -/
theorem witness_inv (cmd : Word32) (p : Bytes) : (performing (some (freshEngine .md5)) cmd p).Inv := by
  refine ⟨⟨by simp [performing], by simp [performing, isReset]⟩, ?_, by simp [performing, State.reset]⟩
  intro n v hv
  by_cases hn : n = 0
  · subst hn
    have : v = freshEngine .md5 := by
      simpa [State.engine, State.inst, performing, instanceAt] using hv.symm
    subst this
    decide
  · simp [State.engine, State.inst, performing, instanceAt, hn, Instance.reset] at hv

/-- StepKeepsInvariant, CommandsInProgressAllEnd: a state with the invariant that steps. -/
theorem witness_inv_step :
    (performing (some (freshEngine .md5)) 0x00000002#32 [0x61#8]).Inv ∧
    ∃ t, step (performing (some (freshEngine .md5)) 0x00000002#32 [0x61#8]) = .next t := ⟨witness_inv _ _, _, rfl⟩

/-- DutifulHostIsNeverRefused: a host that presents, awaits and presents again. -/
theorem witness_duty :
    ({ State.reset with
        script := [.present 0 0x00000001#32 [], .await 0, .present 0 0x00000003#32 []] } : State).HostDuty :=
  ⟨numInstances_pos, rfl, numInstances_pos, rfl, trivial⟩

/-- TransactionIsPresentThenAwait. -/
theorem witness_transaction :
    (Instr.init .md5).WellFormed ∧ 0 < Config.numInstances ∧ State.reset.port 0 = none ∧
    ({ State.reset with
        script := [.present 0 (encode (.init .md5)) [], .await 0] } : State).script[0]? =
      some (.present 0 (encode (.init .md5)) []) ∧
    ({ State.reset with
        script := [.present 0 (encode (.init .md5)) [], .await 0] } : State).script[1]? = some (.await 0) :=
  ⟨rfl, numInstances_pos, rfl, rfl, rfl⟩

/-- CommandTouchesOnlyItsInstance (a command that is neither INIT nor UPDATE), CommandReturnsItsListedStatuses,
OnlyInitWritesAlg: a command answers a next state whose instance is initialised. -/
theorem witness_exec_next :
    ∃ t, exec .digest (performing (some (freshEngine .md5)) 0x00000003#32 [0x78#8]) = .next t ∧
      t.engine 0 = some (freshEngine .md5) ∧ (∀ alg, Instr.digest ≠ .init alg) ∧ Instr.digest ≠ .update :=
  ⟨_, rfl, by decide, by simp, by simp⟩

/-- ErrorsAreReportedInPriorityOrder and the statements over `Performing`: every command word with every
payload, on an instance with any engine, is the command in progress of some state that performs it next. -/
theorem witness_next_move (e : Option Engine) (cmd : Word32) (p : Bytes) :
    (performing e cmd p).nextMove = .perform 0 ∧
    (performing e cmd p).port 0 = some { cmd := cmd, payload := p } ∧
    (performing e cmd p).Performing { cmd := cmd, payload := p } ∧ (performing e cmd p).engine 0 = e :=
  ⟨rfl, rfl, rfl, rfl⟩

/-- ErrorsAreReportedInPriorityOrder, the word and the flag VALID: clauses 1 to 3. -/
theorem witness_priority_word_and_valid :
    decode 0x00000082#32 = .error (.reservedBits 2) ∧
    ((performing none 0x00000002#32 []).engine 0 = none ∧ decode 0x00000002#32 = .ok .update) ∧
    ((performing (some (freshEngine .md5)) 0x00000003#32 [0x78#8]).engine 0 ≠ none ∧ [0x78#8] ≠ ([] : Bytes) ∧
      decode 0x00000003#32 = .ok .digest) := by decide

/-- ErrorsAreReportedInPriorityOrder, the payloads: clauses 4 to 9, at the boundary lengths and values. -/
theorem witness_priority_payload :
    (decode 0x0000804A#32 = .ok (.unpack .little 2) ∧ (zeroBytes 3).length % 2 ^ 2 ≠ 0) ∧
    (decode 0x00008009#32 = .ok (.pack .big 2) ∧ (zeroBytes 7).length % 8 ≠ 0) ∧
    (decode 0x00000049#32 = .ok (.pack .little 0) ∧ (hexBytes "0000000000000100").length % 8 = 0 ∧
      0 < (hexBytes "0000000000000100").length / 8 ∧
      2 ^ (8 * 2 ^ 0) ≤ wordValue .big (slice (hexBytes "0000000000000100") (8 * 0) (8 * 0 + 8))) ∧
    (decode 0x00000407#32 = .ok (.rotl .w32 4) ∧ 2 ^ rotBits .w32 ≤ wordValue .big (hexBytes "0000000100000000")) ∧
    (decode 0x00000107#32 = .ok (.rotl .w32 1) ∧ (hexBytes "12345678").length ≠ 8) ∧
    (decode 0x00000006#32 = .ok (.pad .md5) ∧ (zeroBytes 8).length ≠ 16) ∧
    (decode 0x00000005#32 = .ok (compressInstr .md5) ∧ (zeroBytes 79).length ≠ stateSize .md5 + blockSize .md5) := by
  decide

/-- InitLoadsInitialValueAndAbsorbs, UpdateFoldsWholeBlocks, TotalBytesAreCounted, HexdigestIsHexOfDigest. -/
theorem witness_engine :
    (performing (some (freshEngine .md5)) 0x00000002#32 []).Performing { cmd := 0x00000002#32, payload := [] } ∧
    (performing (some (freshEngine .md5)) 0x00000002#32 []).engine 0 = some (freshEngine .md5) := ⟨rfl, rfl⟩

/-- DigestCompressesOneOrTwoBlocks: the longest tail of one block, 55 bytes, and the shortest of two, 56. -/
theorem witness_digest_threshold :
    ({ freshEngine .md5 with buf := zeroBytes 55 } : Engine).Wf ∧ (zeroBytes 55).length ≤ 64 - 1 - 8 ∧
    ({ freshEngine .md5 with buf := zeroBytes 56 } : Engine).Wf ∧ ¬ (zeroBytes 56).length ≤ 64 - 1 - 8 ∧
    ∀ v, (performing (some v) 0x00000003#32 []).Performing { cmd := 0x00000003#32, payload := [] } ∧
      (performing (some v) 0x00000003#32 []).engine 0 = some v :=
  ⟨by decide, by decide, by decide, by decide, fun _ => ⟨rfl, rfl⟩⟩

/-- HexdigestIsHexOfDigest and DigestCompressesOneOrTwoBlocks meet their hypotheses together. -/
theorem witness_digest :
    (performing (some (freshEngine .sha1)) 0x00000003#32 []).Performing { cmd := 0x00000003#32, payload := [] } ∧
    (performing (some (freshEngine .sha1)) 0x00000003#32 []).engine 0 = some (freshEngine .sha1) ∧
    (freshEngine .sha1).Wf := ⟨rfl, rfl, by decide⟩

/-- CommandsButUpdateAreIdempotent. -/
theorem witness_not_update : Instr.init .md5 ≠ .update := by decide

/-- BlocksCounterMayWrapAt118Bits, at the first count that wraps. -/
theorem witness_blocks_wrap :
    let v : Engine := { freshEngine .sha512 with blocks := 2 ^ 118 }
    let w : Engine := { v with blocks := v.blocks % 2 ^ 118 }
    (performing (some v) 0x00000003#32 []).Performing { cmd := 0x00000003#32, payload := [] } ∧
    (performing (some w) 0x00000003#32 []).Performing { cmd := 0x00000003#32, payload := [] } ∧
    (performing (some v) 0x00000003#32 []).engine 0 = some v ∧
    (performing (some w) 0x00000003#32 []).engine 0 = some { v with blocks := v.blocks % 2 ^ 118 } :=
  ⟨rfl, rfl, rfl, rfl⟩

/-- OnlyResetClearsValid: a step with VALID = 1 before it, and one that sets it. -/
theorem witness_valid :
    (∃ t, step (performing (some (freshEngine .md5)) 0x00000002#32 []) = .next t ∧
      validFlag ((performing (some (freshEngine .md5)) 0x00000002#32 []).inst 0) = true ∧
      (performing (some (freshEngine .md5)) 0x00000002#32 []).script[0]? ≠ some .reset) ∧
    (∃ t, step (performing none 0x00000001#32 []) = .next t ∧
      validFlag ((performing none 0x00000001#32 []).inst 0) = false ∧ validFlag (t.inst 0) = true) :=
  ⟨⟨_, rfl, by decide, by decide⟩, ⟨_, rfl, by decide, by decide⟩⟩

/-- OnlyInitWritesAlg: INIT answers a next state whose instance is initialised. -/
theorem witness_init_next :
    ∃ t v, exec (.init .sha1) (performing none 0x00000011#32 []) = .next t ∧ t.engine 0 = some v :=
  ⟨_, freshEngine .sha1, rfl, by decide⟩

/-- PureCommandsIgnoreInstanceState: the same command on an initialised and an uninitialised instance. -/
theorem witness_pure :
    isPure (.pad .md5) = true ∧
    (performing none 0x00000006#32 []).Performing { cmd := 0x00000006#32, payload := [] } ∧
    (performing (some (freshEngine .md5)) 0x00000006#32 []).Performing { cmd := 0x00000006#32, payload := [] } :=
  ⟨rfl, rfl, rfl⟩

/-- CompressReturnsNewState, each clause. -/
theorem witness_compress_lengths :
    (∀ n, (performing none 0x00000005#32 (zeroBytes n)).Performing
      { cmd := 0x00000005#32, payload := zeroBytes n }) ∧
    (zeroBytes 80).length = 80 ∧ (zeroBytes 84).length = 84 ∧ (zeroBytes 96).length = 96 ∧
    (zeroBytes 192).length = 192 := ⟨fun _ => rfl, by decide⟩

/-- PadReturnsMinimalPadding. -/
theorem witness_pad :
    (performing none 0x00000006#32 (zeroBytes 16)).Performing { cmd := 0x00000006#32, payload := zeroBytes 16 } ∧
    (zeroBytes 16).length = 16 := ⟨rfl, by decide⟩

/-- PaddingLengthAndThreshold and Sha512LengthFieldIsTwoWords, at the boundary of each clause. -/
theorem witness_padding_threshold :
    55 % blockSize .md5 ≤ blockSize .md5 - 1 - lengthSize .md5 ∧
    blockSize .md5 - 1 - lengthSize .md5 < 56 % blockSize .md5 ∧
    111 % blockSize .sha512 ≤ blockSize .sha512 - 1 - lengthSize .sha512 ∧
    blockSize .sha512 - 1 - lengthSize .sha512 < 112 % blockSize .sha512 ∧
    8 * 2 ^ 61 % 2 ^ 128 / 2 ^ 64 ≠ 0 := by decide

/-- RotlReturnsRotatedWord, RotrReturnsRotatedWord and RotrIsRotlByTheComplement, at the largest operand. -/
theorem witness_rotate :
    (∀ p, (performing none 0x00003F87#32 p).Performing { cmd := 0x00003F87#32, payload := p }) ∧
    (hexBytes "00000000ffffffff").length = 8 ∧
    wordValue .big (hexBytes "00000000ffffffff") < 2 ^ rotBits .w32 ∧ 31 < rotBits .w32 ∧
    wordValue .big (hexBytes "ffffffffffffffff") < 2 ^ rotBits .w64 ∧ 63 < rotBits .w64 :=
  ⟨fun _ => rfl, by decide⟩

/-- RotationMovesEveryBit and RotationLaws: both widths, an amount with r = 0 and one with the largest r. -/
theorem witness_rotation_widths :
    ((32 : Nat) = 32 ∨ (32 : Nat) = 64) ∧ ((64 : Nat) = 32 ∨ (64 : Nat) = 64) ∧
    ((-32 : Int) % (32 : Nat)).toNat = 0 ∧ ((-1 : Int) % (32 : Nat)).toNat = 31 ∧ 31 < 32 := by decide

/-- PackReturnsBytesOfWords, at the largest word of a 1-byte and of an 8-byte PACK. -/
theorem witness_pack :
    (∀ p, (performing none 0x00000009#32 p).Performing { cmd := 0x00000009#32, payload := p }) ∧
    (hexBytes "00000000000000ff").length % 8 = 0 ∧
    (∀ j, j < (hexBytes "00000000000000ff").length / 8 →
      wordValue .big (slice (hexBytes "00000000000000ff") (8 * j) (8 * j + 8)) < 2 ^ (8 * 2 ^ 0)) ∧
    (∀ j, j < (hexBytes "ffffffffffffffff").length / 8 →
      wordValue .big (slice (hexBytes "ffffffffffffffff") (8 * j) (8 * j + 8)) < 2 ^ (8 * 2 ^ 3)) :=
  ⟨fun _ => rfl, by decide⟩

/-- UnpackReturnsWordsOfBytes. -/
theorem witness_unpack :
    (performing none 0x0000800A#32 (hexBytes "0102030405060708")).Performing
      { cmd := 0x0000800A#32, payload := hexBytes "0102030405060708" } ∧
    (hexBytes "0102030405060708").length % 2 ^ 2 = 0 ∧ 2 < 4 := ⟨rfl, by decide⟩

/-- UnpackInvertsPack: words in range, and a PACK whose DATA another state unpacks. -/
theorem witness_unpack_pack :
    (∀ x ∈ [0xFFFF, 0], x < 2 ^ (8 * 2 ^ 1)) ∧
    exec (.pack .big 1) (performing none 0x00004009#32 (hexBytes "000000000000ffff")) =
      .next ((performing none 0x00004009#32 (hexBytes "000000000000ffff")).respond (hexBytes "ffff")) ∧
    (performing none 0x0000400A#32 (hexBytes "ffff")).Performing
      { cmd := 0x0000400A#32, payload := hexBytes "ffff" } := by
  refine ⟨by decide, ?_, rfl⟩
  simp only [exec, execPack]
  exact performPure_ok (witness_performing none 0x00004009#32 (hexBytes "000000000000ffff")) (by decide)

/-- The four statements on the compression functions. -/
theorem witness_block_lengths : (zeroBytes 64).length = 64 ∧ (zeroBytes 128).length = 128 := by decide

/-- AssemblyLinesHaveTheirWords, at the boundary of each clause. -/
theorem witness_assembly :
    2 ^ 128 - 1 < 2 ^ 128 ∧ 63 < 64 ∧ 2 ^ 64 - 1 < 2 ^ 64 ∧ 3 < 4 ∧ 64 ≤ 64 ∧ 3 ∉ [1, 2, 4, 8] ∧
    (Instr.rotl .w64 63).WellFormed ∧ ∀ b ∈ [0x22#8, 0x5C#8, 0x7F#8], b.toNat < 128 := by decide


end Sys2Proof.Tests
end

/-! SUPPORT. The proofs of the family 20_memory.md.

The end of a transaction in terms of the instance it addresses, the update loop of rule R233 independent of
its fuel, and the statements on byte order (R42), interleaving (R49), overlapping commands (R50) and
chunking (R55). -/

namespace Sys2Proof.Machine

/-! ## Presenting a command, rule R50 -/

theorem step_of_present {s : State} {n : Nat} {cmd : Word32} {p : Bytes}
    (h : s.script[s.pc]? = some (.present n cmd p)) : step s = s.accept n { cmd := cmd, payload := p } := by
  simp [step, State.nextMove, h]

/-- Settles O9: the step presents the command, and a busy instance of the platform refuses it. -/
theorem overlappingCommandIsRefused : Obligations.OverlappingCommandIsRefused := by
  intro s n cmd p r hpresent hn hbusy
  rw [step_of_present hpresent, accept_busy hn hbusy]

/-! ## The value of a byte sequence, rule R42 -/

theorem leValue_append (a b : Bytes) : leValue (a ++ b) = leValue a + 2 ^ (8 * a.length) * leValue b := by
  induction a with
  | nil => simp [leValue]
  | cons x a ih =>
    simp only [List.cons_append, leValue, ih, List.length_cons]
    ring

/-- Read big-endian, the first byte is the most significant one. -/
theorem wordValue_big_cons (x : Byte) (b : Bytes) :
    wordValue .big (x :: b) = x.toNat * 2 ^ (8 * b.length) + wordValue .big b := by
  simp only [wordValue, List.reverse_cons, leValue_append, List.length_reverse, leValue]
  ring

/-- A sum over the places of a sequence: the first byte's term and the sum over the places of the rest. -/
theorem sum_places_cons (x : Byte) (b : Bytes) (f : Byte → Nat → Nat) :
    ((List.range (x :: b).length).map fun i => f ((x :: b).getD i 0#8) i).sum =
      f x 0 + ((List.range b.length).map fun i => f (b.getD i 0#8) (i + 1)).sum := by
  simp [List.range_succ_eq_map, Function.comp_def]

theorem wordValue_little_eq_sum (b : Bytes) :
    wordValue .little b = ((List.range b.length).map fun i => (b.getD i 0#8).toNat * 2 ^ (8 * i)).sum := by
  induction b with
  | nil => rfl
  | cons x b ih =>
    have shift (y i : Nat) : y * 2 ^ (8 * (i + 1)) = 2 ^ 8 * (y * 2 ^ (8 * i)) := by ring
    rw [sum_places_cons x b fun y i => y.toNat * 2 ^ (8 * i)]
    simp only [shift, List.sum_map_mul_left, ← ih]
    simp [wordValue, leValue]

theorem wordValue_big_eq_sum (b : Bytes) :
    wordValue .big b =
      ((List.range b.length).map fun i => (b.getD i 0#8).toNat * 2 ^ (8 * (b.length - 1 - i))).sum := by
  induction b with
  | nil => rfl
  | cons x b ih =>
    have shift (i : Nat) : (x :: b).length - 1 - (i + 1) = b.length - 1 - i := by
      simp only [List.length_cons]
      omega
    rw [sum_places_cons x b fun y i => y.toNat * 2 ^ (8 * ((x :: b).length - 1 - i)), wordValue_big_cons, ih]
    simp only [shift]
    simp

/-- Settles O48, by induction on the bytes in each order. -/
theorem byteOrderGivesTheValue : Obligations.ByteOrderGivesTheValue :=
  fun b => ⟨wordValue_little_eq_sum b, wordValue_big_eq_sum b⟩

/-! ## A transaction, rule R60 -/

/-- The state in which `State.command` performs its command. -/
def State.presented (s : State) (n : Nat) (i : Instr) (p : Bytes) : State :=
  (s.setInst n { engine := s.engine n, port := some { cmd := encode i, payload := p } }).select n

/-- The state after a transaction that left the engine `e` and was answered with `st` and `d`. -/
def State.answered (s : State) (n : Nat) (i : Instr) (p : Bytes) (e : Option Engine) (st : Status) (d : Bytes) :
    State := (s.presented n i p).complete e st d

section Transaction

variable (s : State) (n : Nat) (i : Instr) (p : Bytes) (e : Option Engine) (st : Status) (d : Bytes)

theorem command_eq_exec : s.command n i p = exec i (s.presented n i p) := rfl

@[simp] theorem presented_active : (s.presented n i p).active = n := rfl

@[simp] theorem presented_engine : (s.presented n i p).engine n = s.engine n := by
  simp [State.presented, State.engine]

theorem presented_performing : (s.presented n i p).Performing { cmd := encode i, payload := p } := by
  simp [State.Performing, State.presented, State.port]

@[simp] theorem answered_inst : (s.answered n i p e st d).inst n = { engine := e, port := none } :=
  complete_inst_active (s.presented n i p) e st d

/-- Rule R33: a transaction touches no other instance. -/
theorem answered_inst_other {m n : Nat} (h : m ≠ n) : (s.answered n i p e st d).inst m = s.inst m := by
  rw [State.answered, complete_inst_other _ _ _ _ h, State.presented, select_inst, setInst_inst_other _ h]

@[simp] theorem answered_responses : (s.answered n i p e st d).responses = s.responses ++ [⟨n, st, d⟩] := rfl

/-- What the host observes of the instance addressed: the new engine, and one more response. -/
theorem answered_view :
    (s.answered n i p e st d).view n = ({ engine := e, port := none }, (s.view n).2 ++ [(st, d)]) := by
  simp [State.view]

/-- A host of another instance observes nothing of the transaction. -/
theorem answered_view_other {m n : Nat} (h : m ≠ n) : (s.answered n i p e st d).view m = s.view m := by
  simp [State.view, answered_inst_other _ _ _ _ _ _ h, h.symm]

end Transaction

/-- How `State.perform` answers: the engine after the command, STATUS and DATA (rules R60 and R261). -/
def answerOf (f : Option Engine → Bytes → Except Error (Option Engine × Bytes)) (p : Bytes) (e : Option Engine) :
    Option Engine × Status × Bytes :=
  match f e p with
  | .error err => (e, .error err, [])
  | .ok (e', d) => (e', .ok, d)

theorem perform_eq_complete {s : State} {r : Request} (h : s.Performing r)
    (f : Option Engine → Bytes → Except Error (Option Engine × Bytes)) :
    s.perform f = .next (s.complete (answerOf f r.payload (s.engine s.active)).1
      (answerOf f r.payload (s.engine s.active)).2.1 (answerOf f r.payload (s.engine s.active)).2.2) := by
  rcases perform_cases h f with ⟨err, hf, hp⟩ | ⟨e, d, hf, hp⟩
  · simp [hp, answerOf, hf, raise_eq_complete]
  · simp [hp, answerOf, hf]

/-- Every command is answered, and its answer depends on nothing but its payload and the engine it
finds. -/
theorem command_answered (i : Instr) (p : Bytes) :
    ∃ answer : Option Engine → Option Engine × Status × Bytes, ∀ (s : State) (n : Nat),
      s.command n i p =
        .next (s.answered n i p (answer (s.engine n)).1 (answer (s.engine n)).2.1 (answer (s.engine n)).2.2) := by
  obtain ⟨f, hf⟩ := exec_eq_perform i
  refine ⟨answerOf f p, fun s n => ?_⟩
  rw [command_eq_exec, hf, perform_eq_complete (presented_performing s n i p) f, presented_active, presented_engine,
    State.answered]

theorem commands_cons {c : Nat × Instr × Bytes} {s t : State} (cs : List (Nat × Instr × Bytes))
    (h : s.command c.1 c.2.1 c.2.2 = .next t) : commands (c :: cs) s = commands cs t := by
  simp [commands, h]

/-! ## Interleaved streams, rule R49 -/

/-- The observations of instance `k` after a sequence of commands follow from the observations before it and
from the commands addressed to `k`. -/
theorem commands_view (k : Nat) (cs : List (Nat × Instr × Bytes)) :
    ∀ s s' : State, s.view k = s'.view k →
      ∃ t u, commands cs s = .next t ∧ commands (cs.filter fun c => decide (c.1 = k)) s' = .next u ∧
        t.view k = u.view k := by
  induction cs with
  | nil => exact fun s s' h => ⟨s, s', rfl, rfl, h⟩
  | cons c cs ih =>
    intro s s' h
    obtain ⟨n, i, p⟩ := c
    obtain ⟨answer, hanswer⟩ := command_answered i p
    rw [commands_cons cs (hanswer s n)]
    by_cases hn : n = k
    · subst hn
      have hengine : s.engine n = s'.engine n := congrArg (fun v => v.1.engine) h
      rw [List.filter_cons_of_pos (by simp), commands_cons _ (hanswer s' n)]
      exact ih _ _ (by rw [answered_view, answered_view, h, hengine])
    · rw [List.filter_cons_of_neg (by simpa using hn)]
      exact ih _ _ (by rw [answered_view_other _ _ _ _ _ _ (Ne.symm hn), h])

/-- Settles O58: both runs begin with the same observations of the instance. -/
theorem interleavedStreamsDoNotInterfere : Obligations.InterleavedStreamsDoNotInterfere :=
  fun s cs k => commands_view k cs s s rfl

/-! ## The update loop, rule R233 -/

/-- Rule R233: BUF with the bytes of `m` after it, before any block is folded. -/
def Engine.extend (v : Engine) (m : Bytes) : Engine := { v with buf := v.buf ++ m }

theorem updateBody_eq_drain (v : Engine) (m : Bytes) :
    updateBody v m = drain (v.extend m).buf.length (v.extend m) := rfl

@[simp] theorem extend_blockBytes (v : Engine) (m : Bytes) : (v.extend m).blockBytes = v.blockBytes := rfl

@[simp] theorem extend_extend (v : Engine) (m m' : Bytes) : (v.extend m).extend m' = v.extend (m ++ m') := by
  simp [Engine.extend]

theorem blockBytes_pos (v : Engine) : 0 < v.blockBytes := blockSize_pos v.alg

/-- A pass of the loop makes BUF shorter, so fuel that was enough for one pass more stays enough. -/
theorem foldBlock_buf_length_le {v : Engine} {fuel : Nat} (hv : v.buf.length ≤ fuel + 1) :
    v.foldBlock.buf.length ≤ fuel := by
  have hpos := blockBytes_pos v
  simp only [Engine.foldBlock, List.length_drop]
  omega

/-- Bytes that arrive behind a whole block do not touch its fold. -/
theorem foldBlock_extend {v : Engine} (hv : v.blockBytes ≤ v.buf.length) (m : Bytes) :
    (v.extend m).foldBlock = v.foldBlock.extend m := by
  simp only [Engine.foldBlock, extend_blockBytes]
  simp [Engine.extend, slice, List.take_append_of_le_length hv, List.drop_append_of_le_length hv]

theorem drain_of_le {v : Engine} (fuel : Nat) (hv : v.blockBytes ≤ v.buf.length) :
    drain (fuel + 1) v = drain fuel v.foldBlock := by
  simp [drain, hv]

theorem drain_of_wf {v : Engine} (fuel : Nat) (hv : v.Wf) : drain fuel v = v := by
  cases fuel with
  | zero => rfl
  | succ fuel => simp [drain, Nat.not_le.mpr hv]

/-- Rule R24: with enough fuel the loop ends in a BUF shorter than a block. -/
theorem drain_wf {fuel : Nat} {v : Engine} (hv : v.buf.length ≤ fuel) : (drain fuel v).Wf := by
  induction fuel generalizing v with
  | zero => exact Nat.lt_of_le_of_lt hv (blockBytes_pos v)
  | succ fuel ih =>
    by_cases hB : v.blockBytes ≤ v.buf.length
    · rw [drain_of_le fuel hB]
      exact ih (foldBlock_buf_length_le hv)
    · rw [drain_of_wf _ (Nat.lt_of_not_le hB)]
      exact Nat.lt_of_not_le hB

/-- The fuel does not matter once it is enough. -/
theorem drain_fuel {f f' : Nat} {v : Engine} (hf : v.buf.length ≤ f) (hf' : v.buf.length ≤ f') :
    drain f v = drain f' v := by
  induction f generalizing v f' with
  | zero =>
    have hv : v.Wf := Nat.lt_of_le_of_lt hf (blockBytes_pos v)
    rw [drain_of_wf 0 hv, drain_of_wf f' hv]
  | succ f ih =>
    by_cases hB : v.blockBytes ≤ v.buf.length
    · obtain ⟨g, rfl⟩ : ∃ g, f' = g + 1 := ⟨f' - 1, by have := blockBytes_pos v; omega⟩
      rw [drain_of_le f hB, drain_of_le g hB]
      exact ih (foldBlock_buf_length_le hf) (foldBlock_buf_length_le hf')
    · rw [drain_of_wf _ (Nat.lt_of_not_le hB), drain_of_wf _ (Nat.lt_of_not_le hB)]

/-- Rule R233 with its fuel hidden: where BUF already holds a whole block, one pass of the loop. -/
theorem updateBody_foldBlock {v : Engine} (hv : v.blockBytes ≤ v.buf.length) (m : Bytes) :
    updateBody v m = updateBody v.foldBlock m := by
  have hext : v.blockBytes ≤ (v.extend m).buf.length := by simp [Engine.extend]; omega
  have hfuel : (v.extend m).buf.length ≤ (v.extend m).buf.length + 1 := Nat.le_succ _
  calc updateBody v m = drain ((v.extend m).buf.length + 1) (v.extend m) := drain_fuel le_rfl hfuel
    _ = drain (v.extend m).buf.length (v.foldBlock.extend m) := by
      rw [drain_of_le _ hext, foldBlock_extend hv]
    _ = updateBody v.foldBlock m :=
      drain_fuel (foldBlock_extend hv m ▸ foldBlock_buf_length_le hfuel) le_rfl

/-- Folding whole blocks of BUF early changes nothing for the bytes that follow. -/
theorem updateBody_drain (fuel : Nat) (v : Engine) (m : Bytes) : updateBody (drain fuel v) m = updateBody v m := by
  induction fuel generalizing v with
  | zero => rfl
  | succ fuel ih =>
    by_cases hB : v.blockBytes ≤ v.buf.length
    · rw [drain_of_le fuel hB, ih, ← updateBody_foldBlock hB]
    · rw [drain_of_wf _ (Nat.lt_of_not_le hB)]

theorem updateBody_wf (v : Engine) (m : Bytes) : (updateBody v m).Wf := drain_wf le_rfl

theorem updateBody_nil {v : Engine} (hv : v.Wf) : updateBody v [] = v := by
  have hext : v.extend [] = v := by simp [Engine.extend]
  rw [updateBody_eq_drain, hext, drain_of_wf _ hv]

/-- Rule R55, for two parts. -/
theorem updateBody_updateBody (v : Engine) (m m' : Bytes) :
    updateBody (updateBody v m) m' = updateBody v (m ++ m') := by
  rw [updateBody_eq_drain v m, updateBody_drain, updateBody_eq_drain, extend_extend, ← updateBody_eq_drain]

/-- Rule R55, for any list of parts. -/
theorem foldl_updateBody {v : Engine} (hv : v.Wf) (ms : List Bytes) :
    ms.foldl updateBody v = updateBody v ms.flatten := by
  induction ms generalizing v with
  | nil => exact (updateBody_nil hv).symm
  | cons m ms ih => rw [List.foldl_cons, ih (updateBody_wf v m), updateBody_updateBody, List.flatten_cons]

theorem freshEngine_wf (alg : Alg) : (freshEngine alg).Wf := blockBytes_pos _

/-! ## The engine commands as transactions, rules R232 to R234 -/

theorem exec_init (s : State) (alg : Alg) :
    exec (.init alg) s = s.performWrite fun _ m => .ok (updateBody (freshEngine alg) m) := rfl

theorem exec_update (s : State) :
    exec .update s = s.performWrite fun e m => (requireValid e).map fun v => updateBody v m := rfl

theorem exec_digest (s : State) : exec .digest s = s.performRead digestData := rfl

theorem command_init (s : State) (n : Nat) (alg : Alg) (m : Bytes) :
    s.command n (.init alg) m =
      .next (s.answered n (.init alg) m (some (updateBody (freshEngine alg) m)) .ok []) := by
  rw [command_eq_exec, exec_init]
  exact performWrite_ok (presented_performing s n (.init alg) m) rfl

theorem command_update {s : State} {n : Nat} {v : Engine} (hv : s.engine n = some v) (m : Bytes) :
    s.command n .update m = .next (s.answered n .update m (some (updateBody v m)) .ok []) := by
  rw [command_eq_exec, exec_update]
  refine performWrite_ok (presented_performing s n .update m) ?_
  simp [hv, requireValid, Except.map]

theorem command_digest {s : State} {n : Nat} {v : Engine} (hv : s.engine n = some v) :
    s.command n .digest [] = .next (s.answered n .digest [] (some v) .ok v.digestBytes) := by
  have hengine : (s.presented n .digest []).engine (s.presented n .digest []).active = some v := by simp [hv]
  rw [command_eq_exec, exec_digest, State.answered, ← hengine]
  exact performRead_ok (presented_performing s n .digest []) hengine rfl

theorem engine_of_inst {s : State} {n : Nat} {x : Instance} (h : s.inst n = x) : s.engine n = x.engine :=
  congrArg Instance.engine h

/-- A sequence of UPDATEs of one idle, initialised instance applies update_body to its engine part by part. -/
theorem commands_updates (n : Nat) (ms : List Bytes) {s : State} {v : Engine}
    (hs : s.inst n = { engine := some v, port := none }) :
    ∃ t, commands (ms.map fun m => (n, Instr.update, m)) s = .next t ∧
      t.inst n = { engine := some (ms.foldl updateBody v), port := none } := by
  induction ms generalizing s v with
  | nil => exact ⟨s, rfl, hs⟩
  | cons m ms ih =>
    rw [List.map_cons, commands_cons _ (command_update (engine_of_inst hs) m)]
    exact ih (answered_inst ..)

/-- Rule R55: the instance that INIT and a list of UPDATEs leave depends only on the bytes in order. -/
theorem commands_init_updates (s : State) (n : Nat) (alg : Alg) (ms : List Bytes) :
    ∃ t, commands ((n, .init alg, []) :: ms.map fun m => (n, Instr.update, m)) s = .next t ∧
      t.inst n = { engine := some (updateBody (freshEngine alg) ms.flatten), port := none } := by
  have hfresh := freshEngine_wf alg
  rw [commands_cons _ (command_init s n alg []), updateBody_nil hfresh, ← foldl_updateBody hfresh]
  exact commands_updates n ms (answered_inst ..)

/-- Settles O30: both runs leave the engine of the whole message, and DIGEST reads only the engine. -/
theorem chunkingInvariance : Obligations.ChunkingInvariance := by
  intro s n alg ms
  obtain ⟨t, hrun, ht⟩ := commands_init_updates s n alg ms
  obtain ⟨u, hrun', hu⟩ := commands_init_updates s n alg [ms.flatten]
  rw [List.flatten_singleton] at hu
  exact ⟨t, u, hrun, hrun', ht.trans hu.symm, _, _, _, command_digest (engine_of_inst ht),
    command_digest (engine_of_inst hu), answered_responses .., answered_responses ..⟩

end Sys2Proof.Machine

/-! SUPPORT. The proofs of the family 30_encoding.md.

A row of the opcode table (rule R71) compares every bit that `decode` tests (rule R62), so a selected row
makes the word decode; conversely the fields of a word that decodes put it in the row of its command. -/

namespace Sys2Proof

/-! ## Masks -/

/-- The bits under a mask and the bits outside it make the word. -/
theorem and_or_and_not (x m : Word32) : (x &&& m) ||| (x &&& ~~~m) = x := by
  rw [← BitVec.and_or_distrib_left, BitVec.or_not_self, BitVec.and_allOnes]

/-- Rule R61: the bits [3:0] of the word are the number OP. -/
theorem opField_eq_toNat (cmd : Word32) : opField cmd = (cmd &&& 0x0000000F#32).toNat := by
  simp [opField, Nat.and_two_pow_sub_one_eq_mod cmd.toNat 4]

theorem ofNat_opField (cmd : Word32) : BitVec.ofNat 32 (opField cmd) = cmd &&& 0x0000000F#32 := by
  rw [opField_eq_toNat, BitVec.ofNat_toNat, BitVec.setWidth_eq]

/-- Rules R61 and R63: the bits [5:4] of the word are the code of ALG. -/
theorem and_algMask (cmd : Word32) : cmd &&& 0x00000030#32 = fieldAt (algField cmd).code 4 := by
  have hmask : 0x00000030#32 = BitVec.twoPow 32 5 ||| BitVec.twoPow 32 4 := rfl
  rw [hmask, BitVec.and_or_distrib_left, BitVec.and_twoPow, BitVec.and_twoPow, algField]
  cases cmd.getLsbD 5 <;> cases cmd.getLsbD 4 <;> rfl

/-! ## The words that decode, rule R62 -/

theorem decode_eq_ok_iff {cmd : Word32} {i : Instr} :
    decode cmd = .ok i ↔ ∃ free, freeMask (opField cmd) = some free ∧
      withFields (opField cmd) cmd = some i ∧ cmd &&& ~~~(0x0000000F#32 ||| free) = 0#32 := by
  constructor
  · intro h
    unfold decode at h
    split at h
    next free j hfree hfields =>
      split at h
      next hbits =>
        cases h
        exact ⟨free, hfree, hfields, hbits⟩
      next => cases h
    next => cases h
  · rintro ⟨free, hfree, hfields, hbits⟩
    simp [decode, hfree, hfields, hbits]

/-- Rules R62 and R71: the opcodes with a FREE mask are the opcodes of a command. -/
theorem exists_withFields {op : Nat} {free : Word32} (h : freeMask op = some free) (cmd : Word32) :
    ∃ i, withFields op cmd = some i := by
  unfold freeMask at h
  split at h
  case h_11 => cases h
  all_goals exact ⟨_, rfl⟩

/-- FREE(OP) does not meet the OP field. -/
theorem opMask_and_not_free {op : Nat} {free : Word32} (h : freeMask op = some free) :
    0x0000000F#32 &&& ~~~free = 0x0000000F#32 := by
  unfold freeMask at h
  split at h <;> cases h <;> decide

/-- Outside FREE(OP) a word that passes the check of the reserved bits holds OP alone. -/
theorem and_not_free_of_reserved {cmd free : Word32} (hfree : freeMask (opField cmd) = some free)
    (hbits : cmd &&& ~~~(0x0000000F#32 ||| free) = 0#32) :
    cmd &&& ~~~free = BitVec.ofNat 32 (opField cmd) := by
  have hlow : (cmd &&& ~~~free) &&& 0x0000000F#32 = cmd &&& 0x0000000F#32 := by
    rw [BitVec.and_assoc, BitVec.and_comm (~~~free), opMask_and_not_free hfree]
  have hhigh : (cmd &&& ~~~free) &&& ~~~0x0000000F#32 = 0#32 := by
    rw [BitVec.and_assoc, BitVec.and_comm (~~~free), ← BitVec.not_or, hbits]
  rw [← and_or_and_not (cmd &&& ~~~free) 0x0000000F#32, hlow, hhigh, BitVec.or_zero, ofNat_opField]

/-! ## The rows of the opcode table, rule R71 -/

@[simp] theorem OpcodeRow.selects_iff {row : OpcodeRow} {cmd : Word32} :
    row.selects cmd = true ↔ cmd &&& row.mask = row.pattern := by
  simp [OpcodeRow.selects]

/-- A selected word agrees with the pattern on every set of bits the row compares. -/
theorem OpcodeRow.and_of_selects {row : OpcodeRow} {cmd m : Word32} (h : row.selects cmd = true)
    (hm : row.mask &&& m = m) : cmd &&& m = row.pattern &&& m := by
  rw [← OpcodeRow.selects_iff.mp h, BitVec.and_assoc, hm]

/-- The row of an opcode compares all bits but those of FREE(OP); COMPRESS has one row per algorithm. -/
theorem row_of_opcode {op : Nat} {free cmd : Word32} {i : Instr} (hop : op ≠ 5)
    (hfree : freeMask op = some free) (hfields : withFields op cmd = some i) :
    ⟨i.mnemonic, BitVec.ofNat 32 op, ~~~free⟩ ∈ opcodeTable := by
  unfold freeMask at hfree
  split at hfree
  case h_5 => exact absurd rfl hop
  case h_11 => cases hfree
  all_goals cases hfree; cases hfields; simp [opcodeTable, Instr.mnemonic]

theorem row_of_compress (alg : Alg) :
    ⟨(compressInstr alg).mnemonic, 0x00000005#32 ||| fieldAt alg.code 4, 0xFFFFFFFF#32⟩ ∈ opcodeTable := by
  cases alg <;> decide

/-- A word that decodes selects the row of its command. -/
theorem exists_row_of_decode {cmd : Word32} {i : Instr} (h : decode cmd = .ok i) :
    ∃ row ∈ opcodeTable, row.selects cmd = true ∧ row.mnemonic = i.mnemonic := by
  obtain ⟨free, hfree, hfields, hbits⟩ := decode_eq_ok_iff.mp h
  have hfixed := and_not_free_of_reserved hfree hbits
  by_cases hop : opField cmd = 5
  · rw [hop] at hfree hfields hfixed
    cases hfree
    cases hfields
    have hcmd : cmd = 0x00000005#32 ||| fieldAt (algField cmd).code 4 := by
      rw [← and_algMask, BitVec.or_comm, ← hfixed, and_or_and_not]
    exact ⟨_, row_of_compress (algField cmd),
      OpcodeRow.selects_iff.mpr ((BitVec.and_allOnes (x := cmd)).trans hcmd), rfl⟩
  · exact ⟨_, row_of_opcode hop hfree hfields, OpcodeRow.selects_iff.mpr hfixed, rfl⟩

/-- Every row compares the OP field and the reserved bits of its opcode, and its pattern passes the checks. -/
theorem row_compares_checks : ∀ row ∈ opcodeTable, ∃ free ∈ freeMask (opField row.pattern),
    row.mask &&& 0x0000000F#32 = 0x0000000F#32 ∧
    row.mask &&& ~~~(0x0000000F#32 ||| free) = ~~~(0x0000000F#32 ||| free) ∧
    row.pattern &&& ~~~(0x0000000F#32 ||| free) = 0#32 := by
  intro row hrow
  simp only [opcodeTable] at hrow
  fin_cases hrow <;> exact ⟨_, rfl, rfl, rfl, rfl⟩

/-- A word that selects a row decodes. -/
theorem exists_decode_of_selects {row : OpcodeRow} {cmd : Word32} (hrow : row ∈ opcodeTable)
    (h : row.selects cmd = true) : ∃ i, decode cmd = .ok i := by
  obtain ⟨free, hfree, hopMask, hresMask, hpattern⟩ := row_compares_checks row hrow
  have hop : opField cmd = opField row.pattern := by
    rw [opField_eq_toNat, OpcodeRow.and_of_selects h hopMask, opField_eq_toNat]
  have hbits : cmd &&& ~~~(0x0000000F#32 ||| free) = 0#32 :=
    (OpcodeRow.and_of_selects h hresMask).trans hpattern
  rw [Option.mem_def, ← hop] at hfree
  obtain ⟨i, hi⟩ := exists_withFields hfree cmd
  exact ⟨i, decode_eq_ok_iff.mpr ⟨free, hfree, hi, hbits⟩⟩

/-- Different rows have different patterns on the bits both compare. -/
theorem row_eq_of_patterns_agree : ∀ row ∈ opcodeTable, ∀ row' ∈ opcodeTable,
    row'.pattern &&& row.mask = row.pattern &&& row'.mask → row' = row := by decide

/-- No word selects two rows. -/
theorem row_eq_of_selects {row row' : OpcodeRow} {cmd : Word32} (hrow : row ∈ opcodeTable)
    (hrow' : row' ∈ opcodeTable) (h : row.selects cmd = true) (h' : row'.selects cmd = true) : row' = row := by
  refine row_eq_of_patterns_agree row hrow row' hrow' ?_
  rw [← OpcodeRow.selects_iff.mp h, ← OpcodeRow.selects_iff.mp h', BitVec.and_assoc, BitVec.and_assoc,
    BitVec.and_comm row'.mask]

/-- Settles O3: a word that decodes selects the row of its command and no second one, and a word that
selects a row decodes. -/
theorem decodeAgreesWithOpcodeTable : Obligations.DecodeAgreesWithOpcodeTable := by
  refine ⟨rfl, fun cmd => ⟨fun i hi => ?_, fun e he row hrow => ?_⟩⟩
  · obtain ⟨row, hrow, hselects, hmnemonic⟩ := exists_row_of_decode hi
    exact ⟨row, hrow, hselects, hmnemonic, fun row' hrow' h' => row_eq_of_selects hrow hrow' hselects h'⟩
  · refine Bool.eq_false_iff.mpr fun hselects => ?_
    obtain ⟨i, hi⟩ := exists_decode_of_selects hrow hselects
    cases he.symm.trans hi

end Sys2Proof

/-! SUPPORT. The proofs of the family 40_utils.md.

A rotation is Lean's `BitVec.rotateLeft` by the amount modulo W, so one lemma on its bits (rule R100) gives the
statements on rotations (R100, R101, R110); `packWord` and `wordValue` are inverse on one word, and lists of words
follow by induction (R102, R103, R109). -/

namespace Sys2Proof.Machine

/-! ## Rotations, rules R100, R101 and R110 -/

/-- The remainder as a natural number is the integer remainder. -/
theorem natCast_toNat_emod {w : Nat} (hw : 0 < w) (a : Int) : ((a % w).toNat : Int) = a % w :=
  Int.toNat_of_nonneg (Int.emod_nonneg a (by omega))

theorem toNat_emod_lt {w : Nat} (hw : 0 < w) (a : Int) : (a % w).toNat < w := by
  have := Int.emod_lt_of_pos a (b := w) (by omega)
  omega

theorem rotl_eq_rotateLeft {w : Nat} (hw : 0 < w) (x : BitVec w) (n : Int) :
    rotl x n = x.rotateLeft (n % w).toNat := by
  rw [BitVec.rotateLeft_eq_rotateLeftAux_of_lt (toNat_emod_lt hw n), rotl, BitVec.rotateLeftAux]
  by_cases hr : (n % w).toNat = 0
  · simp [hr, BitVec.ushiftRight_eq_zero]
  · simp [hr]

/-- Rule R100: bit `i` of the result is bit `(i - n) mod W` of the word. -/
theorem getLsbD_rotl {w i : Nat} (hi : i < w) (x : BitVec w) (n : Int) :
    (rotl x n).getLsbD i = x.getLsbD (((i : Int) - n) % w).toNat := by
  have hw : 0 < w := by omega
  have hplace : ((i : Int) - n) % w = ((i : Int) - (n % w).toNat) % w := by
    rw [natCast_toNat_emod hw, Int.sub_emod_emod]
  have hlt := toNat_emod_lt hw n
  rw [rotl_eq_rotateLeft hw, BitVec.getLsbD_rotateLeft, Nat.mod_eq_of_lt hlt, hplace]
  generalize (n % w).toNat = r at hlt
  by_cases hir : i < r
  · have hwrap : ((i : Int) - r) % w = w - r + i := by
      rw [← Int.add_emod_right, Int.emod_eq_of_lt] <;> omega
    have : (((i : Int) - r) % w).toNat = w - r + i := by omega
    simp [hir, this]
  · have hstay : ((i : Int) - r) % w = i - r := by
      rw [Int.emod_eq_of_lt] <;> omega
    have : (((i : Int) - r) % w).toNat = i - r := by omega
    simp [hir, hi, this]

theorem rotl_emod {w : Nat} (x : BitVec w) (n : Int) : rotl x (n % w) = rotl x n := by
  simp [rotl]

theorem rotr_eq_rotl_neg {w : Nat} (x : BitVec w) (n : Int) : rotr x n = rotl x (-n) := rotl_emod x (-n)

/-- Rule R101: bit `i` of the result is bit `(i + n) mod W` of the word. -/
theorem getLsbD_rotr {w i : Nat} (hi : i < w) (x : BitVec w) (n : Int) :
    (rotr x n).getLsbD i = x.getLsbD (((i : Int) + n) % w).toNat := by
  rw [rotr_eq_rotl_neg, getLsbD_rotl hi, sub_neg_eq_add]

theorem rotl_of_emod_eq_zero {w : Nat} {n : Int} (h : (n % w).toNat = 0) (x : BitVec w) : rotl x n = x := by
  simp [rotl, h]

theorem toNat_rotl_of_emod_ne_zero {w : Nat} {n : Int} (h : (n % w).toNat ≠ 0) (x : BitVec w) :
    (rotl x n).toNat =
      (x.toNat * 2 ^ (n % w).toNat % 2 ^ w) ||| (x.toNat / 2 ^ (w - (n % w).toNat)) := by
  simp [rotl, h, Nat.shiftLeft_eq, Nat.shiftRight_eq_div_pow]

/-- Settles O46: the shifts are the definition's two branches, and the bits of ROTL give those of ROTR. -/
theorem rotationMovesEveryBit : Obligations.RotationMovesEveryBit := by
  intro w hw x n r
  have hr : ((r : Nat) : Int) = n % w := natCast_toNat_emod (by omega) n
  refine ⟨fun h => rotl_of_emod_eq_zero h x, fun h => toNat_rotl_of_emod_ne_zero h x, rfl, fun i hi => ⟨?_, ?_⟩⟩
  · rw [getLsbD_rotl hi, hr, Int.sub_emod_emod]
  · exact getLsbD_rotr hi x n

/-- Rule R110: two rotations are one by the sum of their amounts. -/
theorem rotl_rotl {w : Nat} (x : BitVec w) (m n : Int) : rotl (rotl x m) n = rotl x (m + n) := by
  refine BitVec.eq_of_getLsbD_eq fun i hi => ?_
  have hw : 0 < w := by omega
  rw [getLsbD_rotl hi, getLsbD_rotl (toNat_emod_lt hw _), getLsbD_rotl hi, natCast_toNat_emod hw,
    Int.emod_sub_emod, sub_sub, add_comm n]

theorem rotl_zero {w : Nat} (x : BitVec w) : rotl x 0 = x := rotl_of_emod_eq_zero (by simp) x

theorem rotl_add_width {w : Nat} (x : BitVec w) (n : Int) : rotl x (n + w) = rotl x n := by
  rw [← rotl_emod, Int.add_emod_right, rotl_emod]

/-- Rule R110: ROTR undoes ROTL. -/
theorem rotr_rotl {w : Nat} (x : BitVec w) (n : Int) : rotr (rotl x n) n = x := by
  rw [rotr_eq_rotl_neg, rotl_rotl, add_neg_cancel, rotl_zero]

/-- Settles O47: the three laws hold at every width. -/
theorem rotationLaws : Obligations.RotationLaws :=
  fun _ _ x m n => ⟨rotl_rotl x m n, rotr_rotl x n, rotl_add_width x n⟩
/-! ## One word and its bytes, rules R102 and R103 -/

/-- Rule R102: the two byte orders give the same bytes, in opposite order. -/
theorem packWord_big (ws x : Nat) : packWord ws .big x = (packWord ws .little x).reverse := by
  refine List.ext_getElem (by simp) fun i h _ => ?_
  simp [packWord, packByte]

theorem packWord_little_succ (ws x : Nat) :
    packWord (ws + 1) .little x = BitVec.ofNat 8 x :: packWord ws .little (x / 2 ^ 8) := by
  have shift (i : Nat) : x >>> (8 * (i + 1)) = (x / 2 ^ 8) >>> (8 * i) := by
    rw [← Nat.shiftRight_eq_div_pow, ← Nat.shiftRight_add]
    congr 1
    omega
  simp [packWord, List.range_succ_eq_map, packByte, shift]

/-- Reading the bytes of a word gives its low `ws` bytes back. -/
theorem leValue_packWord_little (ws x : Nat) : leValue (packWord ws .little x) = x % 2 ^ (8 * ws) := by
  induction ws generalizing x with
  | zero => simp [packWord, leValue, Nat.mod_one]
  | succ ws ih =>
    rw [packWord_little_succ, leValue, ih, BitVec.toNat_ofNat, show 8 * (ws + 1) = 8 + 8 * ws by ring, pow_add,
      Nat.mod_mul]

theorem packWord_little_leValue (b : Bytes) : packWord b.length .little (leValue b) = b := by
  induction b with
  | nil => rfl
  | cons x b ih =>
    have hhead : BitVec.ofNat 8 (leValue (x :: b)) = x := by
      apply BitVec.eq_of_toNat_eq
      have := x.isLt
      simp only [leValue, BitVec.toNat_ofNat]
      omega
    have htail : leValue (x :: b) / 2 ^ 8 = leValue b := by
      have := x.isLt
      simp only [leValue]
      omega
    rw [List.length_cons, packWord_little_succ, hhead, htail, ih]

theorem wordValue_packWord {ws x : Nat} (order : Endian) (hx : x < 2 ^ (8 * ws)) :
    wordValue order (packWord ws order x) = x := by
  cases order with
  | little => rw [wordValue, leValue_packWord_little, Nat.mod_eq_of_lt hx]
  | big => rw [packWord_big, wordValue, List.reverse_reverse, leValue_packWord_little, Nat.mod_eq_of_lt hx]

theorem packWord_wordValue (order : Endian) (b : Bytes) : packWord b.length order (wordValue order b) = b := by
  cases order with
  | little => exact packWord_little_leValue b
  | big =>
    have h := packWord_little_leValue b.reverse
    rw [List.length_reverse] at h
    rw [packWord_big, wordValue, h, List.reverse_reverse]

/-! ## Lists of words, rules R102, R103 and R109 -/

theorem pack_cons (ws : Nat) (order : Endian) (x : Nat) (xs : List Nat) :
    pack ws order (x :: xs) = packWord ws order x ++ pack ws order xs := List.flatMap_cons

theorem unpackWords_nil (ws : Nat) (order : Endian) : unpackWords ws order [] = [] := by
  simp [unpackWords]

/-- Rule R103: the first group of `ws` bytes is the first word. -/
theorem unpackWords_append {ws : Nat} (order : Endian) {g : Bytes} (hg : g.length = ws) (hws : 0 < ws) (b : Bytes) :
    unpackWords ws order (g ++ b) = wordValue order g :: unpackWords ws order b := by
  have hcount : (g ++ b).length / ws = b.length / ws + 1 := by
    rw [List.length_append, hg, Nat.add_div_left _ hws]
  have hfirst : slice (g ++ b) (0 * ws) (0 * ws + ws) = g := by simp [slice, ← hg]
  have hrest (j : Nat) :
      slice (g ++ b) ((j + 1) * ws) ((j + 1) * ws + ws) = slice b (j * ws) (j * ws + ws) := by
    have hskip : (j + 1) * ws = g.length + j * ws := by rw [hg]; ring
    simp [slice, hskip, ← List.drop_drop]
  rw [unpackWords, hcount, List.range_succ_eq_map, List.map_cons, hfirst, List.map_map]
  simp only [unpackWords, Function.comp_def, hrest, Nat.succ_eq_add_one]

/-- Rule R109 for the words themselves. -/
theorem unpackWords_pack {ws : Nat} (order : Endian) (hws : 0 < ws) {xs : List Nat}
    (hxs : ∀ x ∈ xs, x < 2 ^ (8 * ws)) : unpackWords ws order (pack ws order xs) = xs := by
  induction xs with
  | nil => exact unpackWords_nil ws order
  | cons x xs ih =>
    obtain ⟨hx, hxs⟩ := List.forall_mem_cons.mp hxs
    rw [pack_cons, unpackWords_append order (packWord_length ws order x) hws, wordValue_packWord order hx, ih hxs]

/-- The converse of rule R109: packing the words of whole groups of bytes gives the bytes. -/
theorem pack_unpackWords {ws : Nat} (order : Endian) (hws : 0 < ws) {b : Bytes} (hb : b.length % ws = 0) :
    pack ws order (unpackWords ws order b) = b := by
  obtain ⟨k, hk⟩ := Nat.dvd_of_mod_eq_zero hb
  clear hb
  induction k generalizing b with
  | zero => simp [List.eq_nil_of_length_eq_zero hk, unpackWords_nil, pack]
  | succ k ih =>
    have hlen : b.length = ws + ws * k := by rw [hk]; ring
    have hg : (b.take ws).length = ws := by simp [hlen]
    have hword := packWord_wordValue order (b.take ws)
    rw [hg] at hword
    conv_lhs => rw [← List.take_append_drop ws b]
    rw [unpackWords_append order hg hws, pack_cons, hword, ih (by simp [hlen]), List.take_append_drop]

/-- Rule R109: unpack inverts pack on words in range. -/
theorem unpack_pack {ws : Nat} (order : Endian) (hws : 0 < ws) {xs : List Nat}
    (hxs : ∀ x ∈ xs, x < 2 ^ (8 * ws)) : unpack ws order (pack ws order xs) = .ok xs := by
  simp [unpack, unpackWords_pack order hws hxs]

/-! ## The commands PACK and UNPACK, rules R107 to R109 -/

theorem exec_pack (order : Endian) (wsc : Nat) (s : State) :
    exec (.pack order wsc) s = s.performPure (packData order wsc) := rfl

theorem exec_unpack (order : Endian) (wsc : Nat) (s : State) :
    exec (.unpack order wsc) s = s.performPure (unpackData order wsc) := rfl

/-- A pure command answers OK with just the DATA it computes: an error response has another STATUS. -/
theorem performPure_eq_respond_iff {s : State} {r : Request} (h : s.Performing r)
    (f : Bytes → Except Error Bytes) (d : Bytes) :
    s.performPure f = .next (s.respond d) ↔ f r.payload = .ok d := by
  refine ⟨fun hd => ?_, performPure_ok h⟩
  cases hf : f r.payload with
  | error e =>
    rw [performPure_error h hf] at hd
    have hresponses := congrArg State.responses (Host.Outcome.next.inj hd)
    simp [raise_eq_complete, respond_eq_complete] at hresponses
  | ok d' =>
    rw [performPure_ok h hf] at hd
    have hresponses := congrArg State.responses (Host.Outcome.next.inj hd)
    simpa [respond_eq_complete] using hresponses

theorem packOperands_eq_ok {wsc : Nat} {p : Bytes} {xs : List Nat} (h : packOperands wsc p = .ok xs) :
    p.length % 8 = 0 ∧ xs = unpackWords 8 .big p ∧ ∀ x ∈ xs, x < 2 ^ (8 * 2 ^ wsc) := by
  unfold packOperands at h
  split at h
  next => cases h
  next hlen =>
    split at h
    next hall =>
      cases h
      exact ⟨by omega, rfl, fun x hx => of_decide_eq_true (List.all_eq_true.mp hall x hx)⟩
    next => cases h

theorem packData_eq_ok {order : Endian} {wsc : Nat} {p d : Bytes} (h : packData order wsc p = .ok d) :
    ∃ xs, packOperands wsc p = .ok xs ∧ d = pack (2 ^ wsc) order xs := by
  unfold packData at h
  cases hxs : packOperands wsc p with
  | error e => simp [hxs, Except.map] at h
  | ok xs =>
    simp only [hxs, Except.map, Except.ok.injEq] at h
    exact ⟨xs, rfl, h.symm⟩

/-- Rule R109 for the DATA of the two commands. -/
theorem unpackData_of_packData {order : Endian} {wsc : Nat} {p d : Bytes} (h : packData order wsc p = .ok d) :
    unpackData order wsc d = .ok p := by
  obtain ⟨xs, hoperands, rfl⟩ := packData_eq_ok h
  obtain ⟨hlen, hxs, hrange⟩ := packOperands_eq_ok hoperands
  rw [unpackData, wordSize, unpack_pack order (Nat.two_pow_pos wsc) hrange, Except.map, hxs,
    pack_unpackWords .big (by decide) hlen]

/-- Settles O51: the words by induction on their list, and the commands because an OK response of PACK holds
the packed words. -/
theorem unpackInvertsPack : Obligations.UnpackInvertsPack := by
  refine fun order wsc _ => ⟨fun xs hxs => unpack_pack order (Nat.two_pow_pos wsc) hxs, ?_⟩
  rintro s t r q d hs ht hpack rfl
  rw [exec_pack, performPure_eq_respond_iff hs] at hpack
  rw [exec_unpack, performPure_eq_respond_iff ht]
  exact unpackData_of_packData hpack

end Sys2Proof.Machine

/-!
The padding generator (spec/41_padding.md): the number of zero bytes against the threshold between one block
and two (R121), and the length field as the end of the padding (R120, R123).
-/

namespace Sys2Proof.Machine

/-! ## The length of the padding, rule R121 -/

/-- Rule R121: z = (B - 1 - L - r) mod B, with r the tail of the message. -/
theorem padZeros_eq_emod {B : Nat} (hB : 0 < B) (T L : Nat) :
    (padZeros T B L : Int) = ((B : Int) - 1 - L - (T % B : Nat)) % B := by
  have hle : (T + 1 + L) % B ≤ B := (Nat.mod_lt _ hB).le
  rw [padZeros, Int.natCast_emod, Nat.cast_sub hle]
  push_cast
  rw [Int.sub_emod_emod, Int.sub_emod_emod]
  ring_nf

/-- The tail that still leaves room for the `0x80` byte and the length field is padded to one block. -/
theorem tail_add_padding_of_le {T B L : Nat} (hB : 0 < B) (h : T % B + 1 + L ≤ B) (order : Endian) :
    T % B + (padding T B L order).length = B := by
  have hz := padZeros_eq_emod hB T L
  rw [Int.emod_eq_of_lt (by omega) (by omega)] at hz
  rw [padding_length]
  omega

/-- A longer tail is padded to two blocks. -/
theorem tail_add_padding_of_lt {T B L : Nat} (hL : 1 + L ≤ B) (h : B < T % B + 1 + L) (order : Endian) :
    T % B + (padding T B L order).length = 2 * B := by
  have hr : T % B < B := Nat.mod_lt _ (by omega)
  have hz := padZeros_eq_emod (by omega : 0 < B) T L
  rw [← Int.add_emod_right, Int.emod_eq_of_lt (by omega) (by omega)] at hz
  rw [padding_length]
  omega

/-- The padded message is whole blocks. -/
theorem add_padding_length_mod {T B L : Nat} (hL : 1 + L ≤ B) (order : Endian) :
    (T + (padding T B L order).length) % B = 0 := by
  rw [← Nat.mod_add_mod]
  rcases Nat.lt_or_ge B (T % B + 1 + L) with h | h
  · rw [tail_add_padding_of_lt hL h, Nat.mul_mod_left]
  · rw [tail_add_padding_of_le (by omega) h, Nat.mod_self]

/-- Rule R6: a block holds the `0x80` byte and the length field. -/
theorem one_add_lengthSize_le_blockSize (alg : Alg) : 1 + lengthSize alg ≤ blockSize alg := by
  cases alg <;> decide

/-- Settles O41: the number of zero bytes is a remainder modulo B, which bounds it, and the threshold says
whether the tail and the padding make one block or two. -/
theorem paddingLengthAndThreshold : Obligations.PaddingLengthAndThreshold := by
  intro alg T B L n
  have hB : 0 < B := blockSize_pos alg
  have hL : 1 + L ≤ B := one_add_lengthSize_le_blockSize alg
  have hn : n = 1 + padZeros T B L + L := padding_length T B L (byteOrder alg)
  have hz : padZeros T B L < B := Nat.mod_lt _ hB
  refine ⟨?_, by omega, by omega, fun h => tail_add_padding_of_le hB (by omega) _,
    fun h => tail_add_padding_of_lt hL (by omega) _, add_padding_length_mod hL _⟩
  rw [hn, ← padZeros_eq_emod hB]
  push_cast
  rfl

/-! ## The length field, rules R120 and R123 -/

/-- Rule R120: the last L bytes of the padding are the length field. -/
theorem padding_drop_eq_lengthField (T B L : Nat) (order : Endian) :
    (padding T B L order).drop ((padding T B L order).length - L) = pack L order [bitLength T L] := by
  rw [padding_length, Nat.add_sub_cancel, padding]
  exact List.drop_left' (by simp [Nat.add_comm])

theorem wordValue_big_append (a b : Bytes) :
    wordValue .big (a ++ b) = 2 ^ (8 * b.length) * wordValue .big a + wordValue .big b := by
  rw [wordValue, List.reverse_append, leValue_append, List.length_reverse, Nat.add_comm]
  rfl

/-- A big-endian word is its high part and then its low part, each big-endian. -/
theorem packWord_big_add {a b x : Nat} (hx : x < 2 ^ (8 * (a + b))) :
    packWord (a + b) .big x = packWord a .big (x / 2 ^ (8 * b)) ++ packWord b .big (x % 2 ^ (8 * b)) := by
  have hhigh : x / 2 ^ (8 * b) < 2 ^ (8 * a) :=
    Nat.div_lt_of_lt_mul (by rwa [← pow_add, ← Nat.mul_add, Nat.add_comm])
  have hlow : x % 2 ^ (8 * b) < 2 ^ (8 * b) := Nat.mod_lt _ (Nat.two_pow_pos _)
  have hvalue : wordValue .big (packWord a .big (x / 2 ^ (8 * b)) ++ packWord b .big (x % 2 ^ (8 * b))) = x := by
    rw [wordValue_big_append, wordValue_packWord .big hhigh, wordValue_packWord .big hlow, packWord_length,
      Nat.div_add_mod]
  have h := packWord_wordValue .big (packWord a .big (x / 2 ^ (8 * b)) ++ packWord b .big (x % 2 ^ (8 * b)))
  rwa [hvalue, List.length_append, packWord_length, packWord_length] at h

theorem pack_singleton (ws : Nat) (order : Endian) (x : Nat) : pack ws order [x] = packWord ws order x :=
  List.flatMap_singleton _ _

/-- Settles O43: the field ends the padding, a 16-byte word is its two halves, and a length below 2^64 bits has
no high half. -/
theorem sha512LengthFieldIsTwoWords : Obligations.Sha512LengthFieldIsTwoWords := by
  intro T len p
  have hlen : len < 2 ^ (8 * (8 + 8)) := Nat.mod_lt _ (Nat.two_pow_pos _)
  refine ⟨padding_drop_eq_lengthField T 128 16 .big, ?_, fun hhigh => ?_⟩
  · simpa only [pack_singleton] using packWord_big_add hlen
  · have hle : len ≤ 8 * T := Nat.mod_le _ _
    omega

end Sys2Proof.Machine

/-! SUPPORT. The proofs of the family 42_md5.md.

The step table of rule R144 is its formulas mapped over the step numbers, so the loop of rule R148 is a fold over
`List.range`, and the working variables before step `i` are the fold over the steps below `i`. -/

namespace Sys2Proof.Machine

/-! ## The words of a block, rules R42 and R103 -/

theorem slice_length {s : Bytes} {a b : Nat} (hb : b ≤ s.length) : (slice s a b).length = b - a := by
  simp only [slice, List.length_take, List.length_drop]
  omega

theorem slice_eq_map_range {s : Bytes} {a n : Nat} (h : a + n ≤ s.length) :
    slice s a (a + n) = (List.range n).map fun i => s.getD (a + i) 0#8 := by
  refine List.ext_getElem (by simp [slice_length h]) fun i hi _ => ?_
  rw [slice_length h] at hi
  have hin : a + i < s.length := by omega
  simp [slice, hin]

theorem leValue_lt (b : Bytes) : leValue b < 2 ^ (8 * b.length) := by
  have h := leValue_packWord_little b.length (leValue b)
  rw [packWord_little_leValue] at h
  rw [h]
  exact Nat.mod_lt _ (Nat.two_pow_pos _)

theorem wordValue_lt (order : Endian) (b : Bytes) : wordValue order b < 2 ^ (8 * b.length) := by
  cases order with
  | little => exact leValue_lt b
  | big => simpa [wordValue] using leValue_lt b.reverse

/-- Rule R103: word `j` of a byte sequence, as a word of its own width, is the value of its `ws` bytes. -/
theorem toNat_getD_unpackWords {ws w : Nat} (hws : 0 < ws) (hw : w = 8 * ws) (order : Endian) {s : Bytes} {j : Nat}
    (hj : j * ws + ws ≤ s.length) :
    (((unpackWords ws order s).map (BitVec.ofNat w)).getD j 0#w).toNat =
      wordValue order (slice s (j * ws) (j * ws + ws)) := by
  have hindex : j < s.length / ws := (Nat.le_div_iff_mul_le hws).mpr (by rwa [Nat.succ_mul])
  have hlt := wordValue_lt order (slice s (j * ws) (j * ws + ws))
  rw [slice_length hj, Nat.add_sub_cancel_left, ← hw] at hlt
  simp [unpackWords, hindex, Nat.mod_eq_of_lt hlt]

/-- Rule R42: the value of four bytes read least significant byte first. -/
theorem wordValue_little_slice_four {s : Bytes} {a : Nat} (ha : a + 4 ≤ s.length) :
    wordValue .little (slice s a (a + 4)) = (s.getD a 0#8).toNat + (s.getD (a + 1) 0#8).toNat * 2 ^ 8 +
      (s.getD (a + 2) 0#8).toNat * 2 ^ 16 + (s.getD (a + 3) 0#8).toNat * 2 ^ 24 := by
  rw [slice_eq_map_range ha]
  change leValue [s.getD a 0#8, s.getD (a + 1) 0#8, s.getD (a + 2) 0#8, s.getD (a + 3) 0#8] = _
  simp only [leValue]
  ring

/-- Rule R142: there is no expansion, and each message word is four bytes of the block. -/
theorem toNat_getD_md5Message {block : Bytes} (hblock : block.length = 64) {j : Nat} (hj : j < 16) :
    ((md5Message block).getD j 0#32).toNat =
      (block.getD (4 * j) 0#8).toNat + (block.getD (4 * j + 1) 0#8).toNat * 2 ^ 8 +
        (block.getD (4 * j + 2) 0#8).toNat * 2 ^ 16 + (block.getD (4 * j + 3) 0#8).toNat * 2 ^ 24 := by
  rw [md5Message, toNat_getD_unpackWords (ws := 4) (by decide) rfl .little (by omega), Nat.mul_comm j 4,
    wordValue_little_slice_four (by omega)]

/-! ## The step table, rules R143 and R144 -/

/-- Rule R143: the mixing function of step `i`. -/
def md5FnAt (i : Nat) : Md5Fn := if i < 16 then .f else if i < 32 then .g else if i < 48 then .h else .i

/-- Rule R144: the message word index of step `i`. -/
def md5IndexAt (i : Nat) : Nat :=
  if i < 16 then i else if i < 32 then (1 + 5 * i) % 16 else if i < 48 then (5 + 3 * i) % 16 else 7 * i % 16

/-- Rule R144: the rotation amounts of the round of step `i`. -/
def md5AmountsAt (i : Nat) : List Nat :=
  if i < 16 then [7, 12, 17, 22] else if i < 32 then [5, 9, 14, 20]
  else if i < 48 then [4, 11, 16, 23] else [6, 10, 15, 21]

/-- Rule R144: the row of step `i`, with T[i] read from the table. -/
def md5RowAt (i : Nat) : Md5Row :=
  { fn := md5FnAt i, k := md5IndexAt i, s := (md5AmountsAt i).getD (i % 4) 0,
    t := (md5Steps.map Md5Row.t).getD i 0#32 }

/-- Rule R144: the formulas and the table agree everywhere. -/
theorem md5Steps_eq_map_range : md5Steps = (List.range 64).map md5RowAt := by decide

theorem md5Mix_md5FnAt (i : Nat) (x y z : Word32) :
    md5Mix (md5FnAt i) x y z =
      if i < 16 then (x &&& y) ||| (~~~x &&& z) else if i < 32 then (x &&& z) ||| (y &&& ~~~z)
      else if i < 48 then x ^^^ y ^^^ z else y ^^^ (x ||| ~~~z) := by
  unfold md5FnAt
  split_ifs <;> rfl

/-! ## The steps, rules R146 to R148 -/

/-- Rule R148: the working variables before step `i`. -/
def md5Before (h : Md5Words) (block : Bytes) (i : Nat) : Md5Words :=
  (List.range i).foldl (fun v i => md5Step (md5Message block) v (md5RowAt i)) h

theorem md5Before_succ (h : Md5Words) (block : Bytes) (i : Nat) :
    md5Before h block (i + 1) = md5Step (md5Message block) (md5Before h block i) (md5RowAt i) := by
  simp [md5Before, List.range_succ]

theorem md5Compress_eq_feedForward (h : Md5Words) (block : Bytes) :
    md5Compress h block = md5FeedForward h (md5Before h block 64) := by
  rw [md5Compress, md5Steps_eq_map_range, List.foldl_map, md5Before]

/-- Settles O53: X is the block's message words and v the working variables before each step of the fold; a step is
rule R146's by definition once its mixing function is written out. -/
theorem md5CompressFollowsItsSteps : Obligations.Md5CompressFollowsItsSteps := by
  intro h block hblock
  refine ⟨fun j => (md5Message block).getD j 0#32, md5Before h block,
    fun j hj => toNat_getD_md5Message hblock hj, rfl, fun i _ => ?_, md5Compress_eq_feedForward h block⟩
  intro a b c d f k amounts T
  have hf : md5Mix (md5FnAt i) b c d = f := md5Mix_md5FnAt i b c d
  rw [md5Before_succ, ← hf]
  rfl

end Sys2Proof.Machine

/-! SUPPORT. The proofs of the family 43_sha1.md.

The facts about the message words and the schedule recursion are shared by the three SHA functions; `sha1Before` is the
fold of `sha1Compress` cut off before a step, tied to it by `sha1Compress_eq_feedForward`. -/

namespace Sys2Proof.Machine

/-! ## The message words and the schedule, rules R174, R194 and R214 -/

theorem toNat_getD_shaMessage {w ws : Nat} (hw : w = 8 * ws) (hws : 0 < ws) {block : Bytes} {j : Nat}
    (hj : ws * j + ws ≤ block.length) :
    ((shaMessage w block).getD j 0#w).toNat = wordValue .big (slice block (ws * j) (ws * j + ws)) := by
  have hdiv : w / 8 = ws := by omega
  rw [Nat.mul_comm] at hj ⊢
  rw [shaMessage, hdiv, toNat_getD_unpackWords hws hw .big hj]

theorem shaMessage_length (w : Nat) (block : Bytes) : (shaMessage w block).length = block.length / (w / 8) := by
  simp [shaMessage]

theorem getD_of_prefix {w : Nat} {xs ys : List (BitVec w)} (h : xs <+: ys) {i : Nat} (hi : i < xs.length) :
    ys.getD i 0#w = xs.getD i 0#w := by
  obtain ⟨zs, rfl⟩ := h
  exact List.getD_append _ _ _ _ hi

section Schedule

variable {w : Nat} (next : List (BitVec w) → BitVec w)

theorem prefix_expandSchedule (n : Nat) (ws : List (BitVec w)) : ws <+: expandSchedule next n ws := by
  induction n generalizing ws with
  | zero => exact List.prefix_refl ws
  | succ n ih => exact (List.prefix_append ws [next ws]).trans (ih _)

theorem expandSchedule_length (n : Nat) (ws : List (BitVec w)) :
    (expandSchedule next n ws).length = ws.length + n := by
  induction n generalizing ws with
  | zero => rfl
  | succ n ih => rw [expandSchedule, ih, List.length_append, List.length_singleton, Nat.add_assoc, Nat.add_comm 1]

/-- The expansion keeps the words it starts from. -/
theorem getD_expandSchedule_of_lt {n i : Nat} {ws : List (BitVec w)} (hi : i < ws.length) :
    (expandSchedule next n ws).getD i 0#w = ws.getD i 0#w :=
  getD_of_prefix (prefix_expandSchedule next n ws) hi

/-- Each word the expansion adds is `next` of all the words before it. -/
theorem getD_expandSchedule {n t : Nat} {ws : List (BitVec w)} (hle : ws.length ≤ t) (hlt : t < ws.length + n) :
    (expandSchedule next n ws).getD t 0#w = next ((expandSchedule next n ws).take t) := by
  induction n generalizing ws with
  | zero => omega
  | succ n ih =>
    rcases hle.eq_or_lt with rfl | hgt
    · have htake := List.prefix_iff_eq_take.mp (prefix_expandSchedule next (n + 1) ws)
      rw [← htake, expandSchedule, getD_expandSchedule_of_lt next (by simp)]
      simp
    · exact ih (by simpa using hgt) (by simp; omega)

end Schedule

/-- W[t - n], seen from the whole schedule. -/
theorem wordBack_take {w n t : Nat} {ws : List (BitVec w)} (ht : t ≤ ws.length) (hn : 0 < n) (hnt : n ≤ t) :
    wordBack (ws.take t) n = ws.getD (t - n) 0#w := by
  have hlen : (ws.take t).length = t := List.length_take_of_le ht
  rw [wordBack, hlen, getD_of_prefix (List.take_prefix t ws) (by omega)]

/-! ## The schedule of SHA-1, rule R174 -/

/-- Rule R42: the value of four bytes read most significant byte first. -/
theorem wordValue_big_slice_four {s : Bytes} {a : Nat} (ha : a + 4 ≤ s.length) :
    wordValue .big (slice s a (a + 4)) = (s.getD a 0#8).toNat * 2 ^ 24 + (s.getD (a + 1) 0#8).toNat * 2 ^ 16 +
      (s.getD (a + 2) 0#8).toNat * 2 ^ 8 + (s.getD (a + 3) 0#8).toNat := by
  rw [slice_eq_map_range ha]
  change leValue [s.getD (a + 3) 0#8, s.getD (a + 2) 0#8, s.getD (a + 1) 0#8, s.getD a 0#8] = _
  simp only [leValue]
  ring

section Sha1Block

variable {block : Bytes} (hblock : block.length = 64)
include hblock

theorem sha1Message_length : (shaMessage 32 block).length = 16 := by
  rw [shaMessage_length, hblock]

theorem toNat_getD_sha1Schedule {j : Nat} (hj : j < 16) :
    ((sha1Schedule block).getD j 0#32).toNat =
      (block.getD (4 * j) 0#8).toNat * 2 ^ 24 + (block.getD (4 * j + 1) 0#8).toNat * 2 ^ 16 +
        (block.getD (4 * j + 2) 0#8).toNat * 2 ^ 8 + (block.getD (4 * j + 3) 0#8).toNat := by
  have hlen := sha1Message_length hblock
  rw [sha1Schedule, getD_expandSchedule_of_lt sha1Next (by omega),
    toNat_getD_shaMessage (ws := 4) rfl (by decide) (by omega), wordValue_big_slice_four (by omega)]

theorem getD_sha1Schedule {t : Nat} (hle : 16 ≤ t) (hlt : t < 80) :
    (sha1Schedule block).getD t 0#32 =
      rotl ((sha1Schedule block).getD (t - 3) 0#32 ^^^ (sha1Schedule block).getD (t - 8) 0#32 ^^^
        (sha1Schedule block).getD (t - 14) 0#32 ^^^ (sha1Schedule block).getD (t - 16) 0#32) 1 := by
  have hlen := sha1Message_length hblock
  have hback {n : Nat} (hn : 0 < n) (hnt : n ≤ t) :
      wordBack ((sha1Schedule block).take t) n = (sha1Schedule block).getD (t - n) 0#32 :=
    wordBack_take (by rw [sha1Schedule, expandSchedule_length]; omega) hn hnt
  have hnext : (sha1Schedule block).getD t 0#32 = sha1Next ((sha1Schedule block).take t) :=
    getD_expandSchedule sha1Next (by omega) (by omega)
  rw [hnext, sha1Next, hback, hback, hback, hback] <;> omega

end Sha1Block

/-! ## The steps, rules R173 and R175 to R177 -/

/-- Rule R173: Parity is used in two ranges. -/
theorem sha1Mix_eq (t : Nat) (x y z : Word32) :
    sha1Mix t x y z =
      if t < 20 then (x &&& y) ^^^ (~~~x &&& z)
      else if 40 ≤ t ∧ t < 60 then (x &&& y) ^^^ (x &&& z) ^^^ (y &&& z) else x ^^^ y ^^^ z := by
  by_cases h : t < 40
  · simp [sha1Mix, ch, parity, h, Nat.not_le_of_lt h]
  · simp [sha1Mix, ch, maj, parity, h, Nat.le_of_not_lt h]

/-- Rule R177: the working variables before step `t`. -/
def sha1Before (h : Sha1Words) (block : Bytes) (t : Nat) : Sha1Words :=
  (List.range t).foldl (sha1Step (sha1Schedule block)) h

theorem sha1Before_succ (h : Sha1Words) (block : Bytes) (t : Nat) :
    sha1Before h block (t + 1) = sha1Step (sha1Schedule block) (sha1Before h block t) t := by
  simp [sha1Before, List.range_succ]

theorem sha1Compress_eq_feedForward (h : Sha1Words) (block : Bytes) :
    sha1Compress h block = sha1FeedForward h (sha1Before h block 80) := rfl

/-- Settles O54: W is the block's schedule and v the working variables before each step of the fold; a step is rule
R175's by definition once its mixing function is written out. -/
theorem sha1CompressFollowsItsSteps : Obligations.Sha1CompressFollowsItsSteps := by
  intro h block hblock
  refine ⟨fun j => (sha1Schedule block).getD j 0#32, sha1Before h block,
    fun j hj => toNat_getD_sha1Schedule hblock hj, fun t hle hlt => getD_sha1Schedule hblock hle hlt, rfl,
    fun t _ => ?_, sha1Compress_eq_feedForward h block⟩
  intro a b c d e f K
  have hf : sha1Mix t b c d = f := sha1Mix_eq t b c d
  rw [sha1Before_succ, ← hf]
  rfl

end Sys2Proof.Machine

/-! # The compression function of SHA-256 -/

namespace Sys2Proof.Machine

/-! ## The structure SHA-256 and SHA-512 share, rules R194, R195, R214 and R215 -/

/-- Rules R194 and R214: W[t] for t ≥ 16, seen from the whole schedule. -/
theorem getD_expandSchedule_sha2Next {w n t : Nat} {sig0 sig1 : BitVec w → BitVec w} {M W : List (BitVec w)}
    (hW : W = expandSchedule (sha2Next sig0 sig1) n M) (hM : M.length = 16) (hle : 16 ≤ t) (hlt : t < 16 + n) :
    W.getD t 0#w = sig1 (W.getD (t - 2) 0#w) + W.getD (t - 7) 0#w + sig0 (W.getD (t - 15) 0#w) +
      W.getD (t - 16) 0#w := by
  have hlen : W.length = 16 + n := by rw [hW, expandSchedule_length, hM]
  have hback {k : Nat} (hk : 0 < k) (hkt : k ≤ t) : wordBack (W.take t) k = W.getD (t - k) 0#w :=
    wordBack_take (by omega) hk hkt
  have hnext : W.getD t 0#w = sha2Next sig0 sig1 (W.take t) :=
    hW ▸ getD_expandSchedule _ (by omega) (by omega)
  rw [hnext, sha2Next, hback, hback, hback, hback] <;> omega

/-- Rules R195 and R215 add the constant and the schedule word one after the other. -/
theorem sha2T1_add {w : Nat} (sum1 : BitVec w → BitVec w) (v : Sha2Words w) (k x : BitVec w) :
    sha2T1 sum1 v (k + x) = v.h + sum1 v.e + ch v.e v.f v.g + k + x :=
  (BitVec.add_assoc _ k x).symm

/-! ## The schedule of SHA-256, rule R194 -/

section Sha256Block

variable {block : Bytes} (hblock : block.length = 64)
include hblock

theorem toNat_getD_sha256Schedule {j : Nat} (hj : j < 16) :
    ((sha256Schedule block).getD j 0#32).toNat = wordValue .big (slice block (4 * j) (4 * j + 4)) := by
  have hlen := sha1Message_length hblock
  rw [sha256Schedule, getD_expandSchedule_of_lt _ (by omega),
    toNat_getD_shaMessage (ws := 4) rfl (by decide) (by omega)]

theorem getD_sha256Schedule {t : Nat} (hle : 16 ≤ t) (hlt : t < 64) :
    (sha256Schedule block).getD t 0#32 =
      sha256Sig1 ((sha256Schedule block).getD (t - 2) 0#32) + (sha256Schedule block).getD (t - 7) 0#32 +
        sha256Sig0 ((sha256Schedule block).getD (t - 15) 0#32) + (sha256Schedule block).getD (t - 16) 0#32 :=
  getD_expandSchedule_sha2Next rfl (sha1Message_length hblock) hle hlt

end Sha256Block

/-! ## The steps of SHA-256, rules R195 to R197 -/

/-- Rule R197: the working variables before step `t`. -/
def sha256Before (h : Sha2Words 32) (block : Bytes) (t : Nat) : Sha2Words 32 :=
  (List.range t).foldl (sha256Step (sha256Schedule block)) h

theorem sha256Before_succ (h : Sha2Words 32) (block : Bytes) (t : Nat) :
    sha256Before h block (t + 1) = sha256Step (sha256Schedule block) (sha256Before h block t) t := by
  simp [sha256Before, List.range_succ]

theorem sha256Compress_eq_feedForward (h : Sha2Words 32) (block : Bytes) :
    sha256Compress h block = sha2FeedForward h (sha256Before h block 64) := rfl

/-- Settles O55: W is the block's schedule and v the working variables before each step of the fold; a step is rule
R195's by definition once T1 adds K_t and W[t] one after the other. -/
theorem sha256CompressFollowsItsSteps : Obligations.Sha256CompressFollowsItsSteps := by
  intro h block hblock
  refine ⟨fun j => (sha256Schedule block).getD j 0#32, sha256Before h block,
    fun j hj => toNat_getD_sha256Schedule hblock hj, fun t hle hlt => getD_sha256Schedule hblock hle hlt, rfl,
    fun t _ => ?_, sha256Compress_eq_feedForward h block⟩
  intro x T1 T2
  have hT1 : sha2T1 sha256Sum1 x (k256.getD t 0#32 + (sha256Schedule block).getD t 0#32) = T1 :=
    sha2T1_add sha256Sum1 x _ _
  rw [sha256Before_succ, ← hT1]
  rfl

end Sys2Proof.Machine

/-! # The compression function of SHA-512 -/

namespace Sys2Proof.Machine

/-! ## The schedule of SHA-512, rule R214 -/

section Sha512Block

variable {block : Bytes} (hblock : block.length = 128)
include hblock

theorem sha512Message_length : (shaMessage 64 block).length = 16 := by
  rw [shaMessage_length, hblock]

theorem toNat_getD_sha512Schedule {j : Nat} (hj : j < 16) :
    ((sha512Schedule block).getD j 0#64).toNat = wordValue .big (slice block (8 * j) (8 * j + 8)) := by
  have hlen := sha512Message_length hblock
  rw [sha512Schedule, getD_expandSchedule_of_lt _ (by omega),
    toNat_getD_shaMessage (ws := 8) rfl (by decide) (by omega)]

theorem getD_sha512Schedule {t : Nat} (hle : 16 ≤ t) (hlt : t < 80) :
    (sha512Schedule block).getD t 0#64 =
      sha512Sig1 ((sha512Schedule block).getD (t - 2) 0#64) + (sha512Schedule block).getD (t - 7) 0#64 +
        sha512Sig0 ((sha512Schedule block).getD (t - 15) 0#64) + (sha512Schedule block).getD (t - 16) 0#64 :=
  getD_expandSchedule_sha2Next rfl (sha512Message_length hblock) hle hlt

end Sha512Block

/-! ## The steps of SHA-512, rules R215 to R217 -/

/-- Rule R217: the working variables before step `t`. -/
def sha512Before (h : Sha2Words 64) (block : Bytes) (t : Nat) : Sha2Words 64 :=
  (List.range t).foldl (sha512Step (sha512Schedule block)) h

theorem sha512Before_succ (h : Sha2Words 64) (block : Bytes) (t : Nat) :
    sha512Before h block (t + 1) = sha512Step (sha512Schedule block) (sha512Before h block t) t := by
  simp [sha512Before, List.range_succ]

theorem sha512Compress_eq_feedForward (h : Sha2Words 64) (block : Bytes) :
    sha512Compress h block = sha2FeedForward h (sha512Before h block 80) := rfl

/-- Settles O56: W is the block's schedule and v the working variables before each step of the fold; a step is rule
R215's by definition once T1 adds K_t and W[t] one after the other. -/
theorem sha512CompressFollowsItsSteps : Obligations.Sha512CompressFollowsItsSteps := by
  intro h block hblock
  refine ⟨fun j => (sha512Schedule block).getD j 0#64, sha512Before h block,
    fun j hj => toNat_getD_sha512Schedule hblock hj, fun t hle hlt => getD_sha512Schedule hblock hle hlt, rfl,
    fun t _ => ?_, sha512Compress_eq_feedForward h block⟩
  intro x T1 T2
  have hT1 : sha2T1 sha512Sum1 x (k512.getD t 0#64 + (sha512Schedule block).getD t 0#64) = T1 :=
    sha2T1_add sha512Sum1 x _ _
  rw [sha512Before_succ, ← hT1]
  rfl

end Sys2Proof.Machine

/-! SUPPORT. The proofs of the family 46_engine.md.

The text of HEXDIGEST digit by digit (rule R236), and the list of instances that a transaction leaves: its
last write of the instance addressed, put in place of the one before it (rule R239). -/

/-! # HEXDIGEST is the text of DIGEST -/

namespace Sys2Proof.Machine

/-! ## The digits of hex, rule R236 -/

/-- The high nibble of byte `k` comes first. -/
theorem getElem?_hex_high (m : Bytes) (k : Nat) : (hex m)[2 * k]? = m[k]?.map fun b => hexDigit (b.toNat / 16) := by
  induction m generalizing k with
  | nil => rfl
  | cons b m ih =>
    rw [hex_cons]
    cases k with
    | zero => rfl
    | succ k => exact ih k

/-- The low nibble of byte `k` follows the high one. -/
theorem getElem?_hex_low (m : Bytes) (k : Nat) :
    (hex m)[2 * k + 1]? = m[k]?.map fun b => hexDigit (b.toNat % 16) := by
  induction m generalizing k with
  | nil => rfl
  | cons b m ih =>
    rw [hex_cons]
    cases k with
    | zero => rfl
    | succ k => exact ih k

/-- Rule R236: the codes of the sixteen lowercase hexadecimal digits. -/
def asciiDigits : List Byte :=
  [0x30#8, 0x31#8, 0x32#8, 0x33#8, 0x34#8, 0x35#8, 0x36#8, 0x37#8, 0x38#8, 0x39#8,
    0x61#8, 0x62#8, 0x63#8, 0x64#8, 0x65#8, 0x66#8]

theorem some_hexDigit : ∀ v, v < 16 → some (hexDigit v) = asciiDigits[v]? := by decide

/-! ## The length of a digest, rule R237 -/

@[simp] theorem hashBytes_length (h : HashState) : (hashBytes h).length = digestSize (algOf h) := by
  cases h <;> simp [hashBytes, hashWords, algOf, wordBits, digestSize]

/-- Rule R22: folding blocks keeps the algorithm. -/
@[simp] theorem algOf_foldBlocks (h : HashState) (B : Nat) (t : Bytes) : algOf (foldBlocks h B t) = algOf h :=
  List.foldlRecOn (motive := fun g => algOf g = algOf h) _ _ rfl fun g hg _ _ => (algOf_compress g _).trans hg

@[simp] theorem digestBytes_length (v : Engine) : v.digestBytes.length = digestSize v.alg := by
  simp [Engine.digestBytes, Engine.alg]

/-! ## The two commands, rules R234 and R235 -/

section DigestCommands

variable {s : State} {r : Request} {v : Engine} (hs : s.Performing r) (hv : s.engine s.active = some v)
  (hp : r.payload = [])
include hs hv hp

theorem exec_digest_ok : exec .digest s = .next (s.respond v.digestBytes) :=
  performRead_ok hs hv (by rw [hp]; rfl)

theorem exec_hexdigest_ok : exec .hexdigest s = .next (s.respond (hex v.digestBytes)) :=
  performRead_ok (f := hexdigestData) hs hv (by rw [hp]; rfl)

end DigestCommands

/-- Settles O28: HEXDIGEST answers `hex` of DIGEST's data, whose digits are read off byte by byte. -/
theorem hexdigestIsHexOfDigest : Obligations.HexdigestIsHexOfDigest := by
  intro s r v hs hv hp
  refine ⟨_, _, exec_digest_ok hs hv hp, exec_hexdigest_ok hs hv hp, by simp, fun k hk => ?_⟩
  have hbyte : v.digestBytes[k]? = some (v.digestBytes.getD k 0#8) := by
    rw [List.getD_eq_getElem _ _ hk, List.getElem?_eq_getElem hk]
  have hlt := (v.digestBytes.getD k 0#8).isLt
  rw [getElem?_hex_high, getElem?_hex_low, hbyte]
  exact ⟨some_hexDigit _ (by omega), some_hexDigit _ (by omega)⟩

end Sys2Proof.Machine

/-! # INIT with a message equals INIT empty and UPDATE -/

namespace Sys2Proof.Machine

/-! ## The instances after a transaction -/

/-- Of two writes of one instance the second stays, in whatever order the list stands. -/
theorem insertInstance_insertInstance (n : Nat) (x y : Instance) (l : List (Nat × Instance)) :
    insertInstance n y (insertInstance n x l) = insertInstance n y l := by
  induction l with
  | nil => simp [insertInstance]
  | cons e l ih =>
    obtain ⟨k, z⟩ := e
    rcases Nat.lt_trichotomy n k with hlt | rfl | hgt
    · simp [insertInstance, hlt]
    · simp [insertInstance]
    · simp [insertInstance, Nat.lt_asymm hgt, Nat.ne_of_gt hgt, ih]

theorem storeInstance_storeInstance {x y : Instance} (hx : isReset x = false) (hy : isReset y = false) (n : Nat)
    (l : List (Nat × Instance)) : storeInstance n y (storeInstance n x l) = storeInstance n y l := by
  simp [storeInstance, hx, hy, insertInstance_insertInstance]

theorem isReset_presented (e : Option Engine) (q : Request) : isReset { engine := e, port := some q } = false :=
  Bool.and_false _

/-- Rule R60: of a transaction that leaves an engine, the instances keep that engine and no trace of the
command presented. -/
theorem answered_instances (s : State) (n : Nat) (i : Instr) (p : Bytes) (v : Engine) (st : Status) (d : Bytes) :
    (s.answered n i p (some v) st d).instances = storeInstance n { engine := some v, port := none } s.instances :=
  storeInstance_storeInstance (y := { engine := some v, port := none })
    (isReset_presented (s.engine n) { cmd := encode i, payload := p }) rfl n s.instances

/-- Settles O31: both runs end in a write of the same engine, since an empty INIT leaves the fresh one. -/
theorem constructionEquivalence : Obligations.ConstructionEquivalence := by
  intro s n alg m
  have hinit := command_init s n alg []
  rw [updateBody_nil (freshEngine_wf alg)] at hinit
  have hupdate := command_update (engine_of_inst (answered_inst s n (.init alg) [] (some (freshEngine alg)) .ok [])) m
  refine ⟨_, _, commands_cons [] (command_init s n alg m),
    (commands_cons _ hinit).trans (commands_cons [] hupdate), ?_⟩
  rw [answered_instances, answered_instances, answered_instances, storeInstance_storeInstance rfl rfl]

end Sys2Proof.Machine

/-! SUPPORT. The proofs of the family 60_exceptions.md.

The one way the step that performs a command ends it, whether its word decodes or not (rule R261), and the
error each check of rule R263 reports, first for the operands and then for the step. -/

namespace Sys2Proof.Machine

/-! ## The end of a command, rule R261 -/

theorem complete_engine_other (s : State) (e : Option Engine) (st : Status) (d : Bytes) {m : Nat}
    (h : m ≠ s.active) : (s.complete e st d).engine m = s.engine m :=
  engine_of_inst (complete_inst_other s e st d h)

/-- A command that ends with the engine it found changes no engine. -/
theorem complete_engine_self (s : State) (st : Status) (d : Bytes) (m : Nat) :
    (s.complete (s.engine s.active) st d).engine m = s.engine m := by
  by_cases hm : m = s.active
  · rw [hm, complete_engine_active]
  · exact complete_engine_other s _ st d hm

/-- Only OK has code 0 (rule R260). -/
theorem ne_ok_of_statusCode_ne_zero {st : Status} (h : statusCode st ≠ 0#8) : st ≠ .ok :=
  fun hst => h (congrArg statusCode hst)

/-- With a command in progress, `performCommand` ends it, and an error changes nothing: a word that does not
decode is raised, and one that does is left to `exec_cases`. -/
theorem performCommand_cases {s : State} {n : Nat} {r : Request} (hport : s.port n = some r) :
    ∃ e st d, performCommand s n = .next ((s.advance.select n).complete e st d) ∧
      (st ≠ .ok → d = [] ∧ e = s.engine n) := by
  cases hdec : decode r.cmd with
  | error err => exact ⟨_, _, _, performCommand_illegal hport hdec, fun _ => ⟨rfl, rfl⟩⟩
  | ok i =>
    rw [performCommand_decoded hport hdec]
    exact exec_cases i (s := s.advance.select n) hport

/-- Settles O21: the step ends the command with one `State.complete`, which on an error writes back the engine
it found. -/
theorem failedCommandChangesNothing : Obligations.FailedCommandChangesNothing := by
  intro s n r hmove hport
  obtain ⟨e, st, d, hend, herror⟩ := performCommand_cases hport
  refine ⟨_, st, d, (step_of_perform hmove).trans hend, rfl, complete_port_active _ e st d, fun hst => ?_⟩
  obtain ⟨hd, rfl⟩ := herror (ne_ok_of_statusCode_ne_zero hst)
  exact ⟨hd, complete_engine_self (s.advance.select n) st d, fun _ => complete_inst_other (s.advance.select n) _ st d⟩

/-! ## The error of a wrong payload, rules R68 to R70 and R103 -/

theorem map_eq_error {α β : Type} {x : Except Error α} {e : Error} (h : x = .error e) (f : α → β) :
    x.map f = .error e := by
  rw [h]
  rfl

theorem noOperands_eq_error {p : Bytes} (h : p ≠ []) : noOperands p = .error .precondition :=
  if_pos (mt List.eq_nil_of_length_eq_zero h)

theorem unpack_eq_error {ws : Nat} {p : Bytes} (order : Endian) (h : p.length % ws ≠ 0) :
    unpack ws order p = .error .invalidInput :=
  if_pos h

theorem packOperands_eq_error_of_length {p : Bytes} (wsc : Nat) (h : p.length % 8 ≠ 0) :
    packOperands wsc p = .error .precondition :=
  if_pos h

/-- One word out of range is enough, wherever it stands. -/
theorem packOperands_eq_error_of_range {wsc j : Nat} {p : Bytes} (hlen : p.length % 8 = 0) (hj : j < p.length / 8)
    (hbig : 2 ^ (8 * 2 ^ wsc) ≤ wordValue .big (slice p (8 * j) (8 * j + 8))) :
    packOperands wsc p = .error .precondition := by
  have hmem : wordValue .big (slice p (8 * j) (8 * j + 8)) ∈ unpackWords 8 .big p :=
    List.mem_map.mpr ⟨j, List.mem_range.mpr hj, by rw [Nat.mul_comm]⟩
  have hall : ¬ (unpackWords 8 .big p).all (fun x => decide (x < 2 ^ (8 * wordSize wsc))) = true := fun hall =>
    Nat.not_lt.mpr hbig (of_decide_eq_true (List.all_eq_true.mp hall _ hmem))
  rw [packOperands, if_neg (not_not.mpr hlen), if_neg hall]

theorem rotateOperand_eq_error {w : RotWidth} {p : Bytes} (h : p.length ≠ 8 ∨ 2 ^ rotBits w ≤ wordValue .big p) :
    rotateOperand w p = .error .precondition := by
  by_cases hlen : p.length = 8
  · rw [rotateOperand, if_neg (not_not.mpr hlen), if_pos (h.resolve_left (not_not.mpr hlen))]
  · exact if_pos hlen

theorem padOperand_eq_error {p : Bytes} (h : p.length ≠ 16) : padOperand p = .error .precondition :=
  if_pos h

theorem compressOperands_eq_error {alg : Alg} {p : Bytes} (h : p.length ≠ stateSize alg + blockSize alg) :
    compressOperands alg p = .error .precondition :=
  if_pos h

theorem exec_compressInstr (alg : Alg) (s : State) :
    exec (compressInstr alg) s = s.performPure (compressData alg) := by
  cases alg <;> rfl

/-! ## The error the step reports, rule R263 -/

section Reports

variable {s : State} {n : Nat} {r : Request} {i : Instr} {e : Error}
  (hmove : s.nextMove = .perform n) (hport : s.port n = some r)
include hmove hport

theorem step_illegal {err : DecodeError} (hdec : decode r.cmd = .error err) :
    step s = .next ((s.advance.select n).raise .illegalCommand) :=
  (step_of_perform hmove).trans (performCommand_illegal hport hdec)

theorem step_decoded (hdec : decode r.cmd = .ok i) : step s = exec i (s.advance.select n) :=
  (step_of_perform hmove).trans (performCommand_decoded hport hdec)

theorem step_pure_error {f : Bytes → Except Error Bytes} (hexec : ∀ t, exec i t = t.performPure f)
    (hdec : decode r.cmd = .ok i) (hf : f r.payload = .error e) : step s = .next ((s.advance.select n).raise e) := by
  rw [step_decoded hmove hport hdec, hexec]
  exact performPure_error hport hf

/-- VALID is checked before the payload, which is arbitrary here. -/
theorem step_read_invalid {f : Engine → Bytes → Except Error Bytes} (hexec : ∀ t, exec i t = t.performRead f)
    (hdec : decode r.cmd = .ok i) (hv : s.engine n = none) :
    step s = .next ((s.advance.select n).raise .notInitialized) := by
  rw [step_decoded hmove hport hdec, hexec]
  exact performRead_invalid hport hv

theorem step_read_error {f : Engine → Bytes → Except Error Bytes} (hexec : ∀ t, exec i t = t.performRead f)
    (hdec : decode r.cmd = .ok i) (hv : s.engine n ≠ none) (hf : ∀ v, f v r.payload = .error e) :
    step s = .next ((s.advance.select n).raise e) := by
  obtain ⟨v, hv⟩ := Option.ne_none_iff_exists'.mp hv
  rw [step_decoded hmove hport hdec, hexec]
  exact performRead_error hport hv (hf v)

theorem step_update_invalid (hdec : decode r.cmd = .ok .update) (hv : s.engine n = none) :
    step s = .next ((s.advance.select n).raise .notInitialized) := by
  have hinvalid : requireValid (s.engine n) = .error .notInitialized := by rw [hv]; rfl
  rw [step_decoded hmove hport hdec, exec_update]
  exact performWrite_error hport (map_eq_error hinvalid _)

end Reports

/-- Settles O24: the word, then VALID, then the payload, each command by the operands it reads. -/
theorem errorsAreReportedInPriorityOrder : Obligations.ErrorsAreReportedInPriorityOrder := by
  intro s n r hmove hport
  refine ⟨fun _ => step_illegal hmove hport, ?valid, ?digest, ?unpack, ?packLength, ?packRange, ?rotate, ?pad,
    ?compress⟩
  case valid =>
    rintro hv (hdec | hdec | hdec)
    · exact step_update_invalid hmove hport hdec hv
    · exact step_read_invalid hmove hport exec_digest hdec hv
    · exact step_read_invalid (f := hexdigestData) hmove hport (fun _ => rfl) hdec hv
  case digest =>
    rintro hv hp (hdec | hdec)
    · exact step_read_error hmove hport exec_digest hdec hv fun _ => map_eq_error (noOperands_eq_error hp) _
    · exact step_read_error (f := hexdigestData) hmove hport (fun _ => rfl) hdec hv fun _ =>
        map_eq_error (noOperands_eq_error hp) _
  case unpack =>
    exact fun order wsc hdec hlen =>
      step_pure_error hmove hport (exec_unpack order wsc) hdec (map_eq_error (unpack_eq_error order hlen) _)
  case packLength =>
    exact fun order wsc hdec hlen =>
      step_pure_error hmove hport (exec_pack order wsc) hdec
        (map_eq_error (packOperands_eq_error_of_length wsc hlen) _)
  case packRange =>
    exact fun order wsc hdec hlen ⟨_, hj, hbig⟩ =>
      step_pure_error hmove hport (exec_pack order wsc) hdec
        (map_eq_error (packOperands_eq_error_of_range hlen hj hbig) _)
  case rotate =>
    rintro w amt (hdec | hdec) hp
    · exact step_pure_error (f := rotlData w amt) hmove hport (fun _ => rfl) hdec
        (map_eq_error (rotateOperand_eq_error hp) _)
    · exact step_pure_error (f := rotrData w amt) hmove hport (fun _ => rfl) hdec
        (map_eq_error (rotateOperand_eq_error hp) _)
  case pad =>
    exact fun alg hdec hlen =>
      step_pure_error (f := padData alg) hmove hport (fun _ => rfl) hdec (map_eq_error (padOperand_eq_error hlen) _)
  case compress =>
    exact fun alg hdec hlen =>
      step_pure_error hmove hport (exec_compressInstr alg) hdec (map_eq_error (compressOperands_eq_error hlen) _)

end Sys2Proof.Machine

/-! SUPPORT. The encoding of a command and the decoding of its word are inverse (30_encoding.md rules R61 to R71).

A field of the command word is the bits under its mask at the place `fieldAt` gives them, so a word that passes the
check of the reserved bits is OP together with its fields: the encoding of the command. -/

namespace Sys2Proof

/-! ## The fields of a word, rules R61 to R67 -/

/-- The bits of a word under the mask of a field are the field's value at its place. -/
theorem and_fieldMask (cmd : Word32) (lo len : Nat) :
    cmd &&& (BitVec.ofNat 32 (2 ^ len - 1) <<< lo) = fieldAt (cmd.extractLsb' lo len).toNat lo := by
  refine BitVec.eq_of_getLsbD_eq fun i hi => ?_
  simp only [fieldAt, BitVec.getLsbD_and, BitVec.getLsbD_shiftLeft, BitVec.getLsbD_ofNat,
    Nat.testBit_two_pow_sub_one, BitVec.extractLsb'_toNat, Nat.testBit_mod_two_pow, Nat.testBit_shiftRight,
    BitVec.testBit_toNat]
  by_cases hlo : i < lo
  · simp [hlo]
  · have hplace : lo + (i - lo) = i := by omega
    have hin : i - lo < 32 := by omega
    simp [hlo, hi, hin, hplace, Bool.and_comm]

theorem and_amtMask (cmd : Word32) : cmd &&& 0x00003F00#32 = fieldAt (amtField cmd) 8 := and_fieldMask cmd 8 6

theorem and_wsMask (cmd : Word32) : cmd &&& 0x0000C000#32 = fieldAt (wsField cmd) 14 := and_fieldMask cmd 14 2

/-- Rules R61 and R64: bit 6 of the word is the code of LE. -/
theorem and_leMask (cmd : Word32) : cmd &&& 0x00000040#32 = fieldAt (leField cmd).code 6 := by
  have hmask : 0x00000040#32 = BitVec.twoPow 32 6 := rfl
  rw [hmask, BitVec.and_twoPow, leField]
  cases cmd.getLsbD 6 <;> rfl

/-- Rules R61 and R65: bit 7 of the word is the code of W64. -/
theorem and_w64Mask (cmd : Word32) : cmd &&& 0x00000080#32 = fieldAt (w64Field cmd).code 7 := by
  have hmask : 0x00000080#32 = BitVec.twoPow 32 7 := rfl
  rw [hmask, BitVec.and_twoPow, w64Field]
  cases cmd.getLsbD 7 <;> rfl

/-- Rules R65 and R66: the free bits of ROTL and ROTR are W64 and AMT. -/
theorem and_rotateMask (cmd : Word32) :
    cmd &&& 0x00003F80#32 = fieldAt (w64Field cmd).code 7 ||| fieldAt (amtField cmd) 8 := by
  have hmask : 0x00003F80#32 = 0x00000080#32 ||| 0x00003F00#32 := rfl
  rw [hmask, BitVec.and_or_distrib_left, and_w64Mask, and_amtMask]

/-- Rules R64 and R67: the free bits of PACK and UNPACK are LE and WS. -/
theorem and_packMask (cmd : Word32) :
    cmd &&& 0x0000C040#32 = fieldAt (leField cmd).code 6 ||| fieldAt (wsField cmd) 14 := by
  have hmask : 0x0000C040#32 = 0x00000040#32 ||| 0x0000C000#32 := rfl
  rw [hmask, BitVec.and_or_distrib_left, and_leMask, and_wsMask]

theorem amtField_lt (cmd : Word32) : amtField cmd < 64 := (cmd.extractLsb' 8 6).isLt

theorem wsField_lt (cmd : Word32) : wsField cmd < 4 := (cmd.extractLsb' 14 2).isLt

/-! ## From the word to the command and back, rule R62 -/

/-- Every value of a field is legal. -/
theorem wellFormed_of_withFields {op : Nat} {cmd : Word32} {i : Instr} (h : withFields op cmd = some i) :
    i.WellFormed := by
  unfold withFields at h
  split at h
  case h_5 =>
    cases h
    cases algField cmd <;> rfl
  case h_7 | h_8 => cases h; exact decide_eq_true (amtField_lt cmd)
  case h_9 | h_10 => cases h; exact decide_eq_true (wsField_lt cmd)
  case h_11 => cases h
  all_goals cases h; rfl

theorem encode_compressInstr (alg : Alg) : encode (compressInstr alg) = 0x00000005#32 ||| fieldAt alg.code 4 := by
  cases alg <;> rfl

/-- The encoding of the command is OP and the word's free bits. -/
theorem encode_of_withFields {op : Nat} {free cmd : Word32} {i : Instr} (hfree : freeMask op = some free)
    (hfields : withFields op cmd = some i) : encode i = BitVec.ofNat 32 op ||| (cmd &&& free) := by
  unfold freeMask at hfree
  split at hfree
  case h_1 | h_6 => cases hfree; cases hfields; rw [and_algMask]; rfl
  case h_5 => cases hfree; cases hfields; rw [and_algMask]; exact encode_compressInstr _
  case h_7 | h_8 => cases hfree; cases hfields; rw [and_rotateMask, ← BitVec.or_assoc]; rfl
  case h_9 | h_10 => cases hfree; cases hfields; rw [and_packMask, ← BitVec.or_assoc]; rfl
  case h_11 => cases hfree
  all_goals cases hfree; cases hfields; simp [encode]

/-- Settles O2: outside its free bits a word that decodes holds OP alone, and its free bits are its fields. -/
theorem encodeOfDecodeIsTheWord : Obligations.EncodeOfDecodeIsTheWord := by
  intro cmd i h
  obtain ⟨free, hfree, hfields, hbits⟩ := decode_eq_ok_iff.mp h
  refine ⟨wellFormed_of_withFields hfields, ?_⟩
  calc encode i = BitVec.ofNat 32 (opField cmd) ||| (cmd &&& free) := encode_of_withFields hfree hfields
    _ = (cmd &&& free) ||| (cmd &&& ~~~free) := by rw [← and_not_free_of_reserved hfree hbits, BitVec.or_comm]
    _ = cmd := and_or_and_not cmd free

/-- Rules R65 and R66: the 128 words of a rotate command. -/
theorem decode_encode_rotate (w : RotWidth) : ∀ amt, amt < 64 →
    decode (encode (.rotl w amt)) = .ok (.rotl w amt) ∧ decode (encode (.rotr w amt)) = .ok (.rotr w amt) := by
  cases w <;> decide

/-- Rules R64 and R67: the 8 words of PACK and of UNPACK. -/
theorem decode_encode_pack (order : Endian) : ∀ wsc, wsc < 4 →
    decode (encode (.pack order wsc)) = .ok (.pack order wsc) ∧
      decode (encode (.unpack order wsc)) = .ok (.unpack order wsc) := by
  cases order <;> decide

/-- Settles O1: each command by the values its fields can have. -/
theorem decodeOfEncodeIsTheCommand : Obligations.DecodeOfEncodeIsTheCommand := by
  intro i h
  cases i with
  | init alg | pad alg => cases alg <;> rfl
  | rotl w amt => exact (decode_encode_rotate w amt (of_decide_eq_true h)).1
  | rotr w amt => exact (decode_encode_rotate w amt (of_decide_eq_true h)).2
  | pack order wsc => exact (decode_encode_pack order wsc (of_decide_eq_true h)).1
  | unpack order wsc => exact (decode_encode_pack order wsc (of_decide_eq_true h)).2
  | update | digest | hexdigest | compressMd5 | compressSha1 | compressSha256 | compressSha512 => rfl

/-- Settles O4: each word is decoded. -/
theorem writtenWordsDecode : Obligations.WrittenWordsDecode := by
  unfold Obligations.WrittenWordsDecode
  decide

end Sys2Proof

/-! SUPPORT. What ends a command and what a step does to each instance of the block.

Every command is `State.perform` of one function, whose answer is characterised once, command by command: the
engine it leaves, its STATUS and its DATA.  The frame of a command, its statuses, the invariant, the duty of the
host and the life of VALID and ALG are read off that answer. -/

namespace Sys2Proof.Machine

/-! ## The answer of a command, rules R230 to R235, R261 and R262 -/

/-- The engines a command that found the engine `e` can leave: INIT and UPDATE write it, no other command does. -/
inductive EngineAfter (m : Bytes) (e : Option Engine) : Instr → Option Engine → Prop
  | kept (i : Instr) : EngineAfter m e i e
  | init (alg : Alg) : EngineAfter m e (.init alg) (some (updateBody (freshEngine alg) m))
  | update {v : Engine} (hv : e = some v) : EngineAfter m e .update (some (updateBody v m))

theorem EngineAfter.eq_of_ne {m : Bytes} {i : Instr} {e e' : Option Engine} (h : EngineAfter m e i e')
    (hinit : ∀ alg, i ≠ .init alg) (hupdate : i ≠ .update) : e' = e := by
  cases h with
  | kept => rfl
  | init alg => exact absurd rfl (hinit alg)
  | update hv => exact absurd rfl hupdate

/-- Rule R24: a command leaves a BUF shorter than a block. -/
theorem EngineAfter.wf {m : Bytes} {i : Instr} {e e' : Option Engine} (h : EngineAfter m e i e')
    (he : ∀ v, e = some v → v.Wf) : ∀ v, e' = some v → v.Wf := by
  cases h with
  | kept => exact he
  | init alg =>
    rintro _ ⟨⟩
    exact updateBody_wf _ m
  | update hv =>
    rintro _ ⟨⟩
    exact updateBody_wf _ m

/-- What is known of the answer of command `i` with payload `m` on the engine `e`. -/
structure AnswerOk (i : Instr) (m : Bytes) (e : Option Engine) (a : Option Engine × Status × Bytes) : Prop where
  engine : EngineAfter m e i a.1
  status : a.2.1 ∈ statusesOf i
  data : a.2.1 ≠ .ok → a.2.2 = []

/-- The one error of a payload that a command can report. -/
def FailsOnlyWith (err : Error) {α : Type} (x : Except Error α) : Prop := ∀ e, x = .error e → e = err

theorem failsOnlyWith_map {α β : Type} {err : Error} {x : Except Error α} (h : FailsOnlyWith err x) (f : α → β) :
    FailsOnlyWith err (x.map f) := by
  cases x with
  | error e =>
    rintro _ ⟨⟩
    exact h e rfl
  | ok a => rintro _ ⟨⟩

theorem failsOnlyWith_ite {α : Type} {c : Prop} [Decidable c] {err : Error} {x : Except Error α}
    (h : FailsOnlyWith err x) : FailsOnlyWith err (if c then .error err else x) := by
  split
  · rintro _ ⟨⟩
    rfl
  · exact h

theorem failsOnlyWith_ok {α : Type} {err : Error} (a : α) : FailsOnlyWith err (.ok a : Except Error α) := by
  rintro _ ⟨⟩

theorem compressOperands_failsOnlyWith (alg : Alg) (p : Bytes) :
    FailsOnlyWith .precondition (compressOperands alg p) := failsOnlyWith_ite (failsOnlyWith_ok _)

theorem padOperand_failsOnlyWith (p : Bytes) : FailsOnlyWith .precondition (padOperand p) :=
  failsOnlyWith_ite (failsOnlyWith_ok _)

theorem noOperands_failsOnlyWith (p : Bytes) : FailsOnlyWith .precondition (noOperands p) :=
  failsOnlyWith_ite (failsOnlyWith_ok _)

theorem unpack_failsOnlyWith (ws : Nat) (order : Endian) (p : Bytes) :
    FailsOnlyWith .invalidInput (unpack ws order p) := failsOnlyWith_ite (failsOnlyWith_ok _)

theorem rotateOperand_failsOnlyWith (w : RotWidth) (p : Bytes) :
    FailsOnlyWith .precondition (rotateOperand w p) :=
  failsOnlyWith_ite (failsOnlyWith_ite (failsOnlyWith_ok _))

theorem packOperands_failsOnlyWith (wsc : Nat) (p : Bytes) :
    FailsOnlyWith .precondition (packOperands wsc p) := by
  refine failsOnlyWith_ite ?_
  split
  · exact failsOnlyWith_ok _
  · rintro _ ⟨⟩
    rfl

/-- Rule R230: a pure command keeps the engine and answers OK or the error of its payload. -/
theorem answerOk_pure {i : Instr} {err : Error} {f : Bytes → Except Error Bytes} {m : Bytes}
    (hst : statusesOf i = [.ok, .error err]) (hf : FailsOnlyWith err (f m)) (e : Option Engine) :
    AnswerOk i m e (answerOf (fun e p => (f p).map fun data => (e, data)) m e) := by
  cases h : f m with
  | error x =>
    simp only [answerOf, h, hf x h, Except.map]
    exact ⟨.kept i, by simp [hst], fun _ => rfl⟩
  | ok d =>
    simp only [answerOf, h, Except.map]
    exact ⟨.kept i, by simp [hst], fun hne => absurd rfl hne⟩

/-- Rules R234 and R235: DIGEST and HEXDIGEST keep the engine; they need one, and an empty payload. -/
theorem answerOk_read {i : Instr} {f : Engine → Bytes → Except Error Bytes} {m : Bytes}
    (hst : statusesOf i = [.ok, .error .notInitialized, .error .precondition])
    (hf : ∀ v, FailsOnlyWith .precondition (f v m)) (e : Option Engine) :
    AnswerOk i m e
      (answerOf (fun e p => (requireValid e).bind fun v => (f v p).map fun data => (e, data)) m e) := by
  cases e with
  | none => exact ⟨.kept i, by simp [answerOf, requireValid, Except.bind, hst], fun _ => rfl⟩
  | some v =>
    cases h : f v m with
    | error x =>
      simp only [answerOf, requireValid, Except.bind, h, Except.map, hf v x h]
      exact ⟨.kept i, by simp [hst], fun _ => rfl⟩
    | ok d =>
      simp only [answerOf, requireValid, Except.bind, h, Except.map]
      exact ⟨.kept i, by simp [hst], fun hne => absurd rfl hne⟩

/-- Rule R232: INIT asks for nothing. -/
theorem answerOk_init (alg : Alg) (m : Bytes) (e : Option Engine) :
    AnswerOk (.init alg) m e (answerOf
      (fun _ p => (Except.ok (updateBody (freshEngine alg) p) : Except Error Engine).map fun v => (some v, [])) m e) :=
  ⟨.init alg, List.mem_singleton.mpr rfl, fun _ => rfl⟩

/-- Rule R233: UPDATE needs an engine. -/
theorem answerOk_update (m : Bytes) (e : Option Engine) :
    AnswerOk .update m e (answerOf
      (fun e p => ((requireValid e).map fun v => updateBody v p).map fun v => (some v, [])) m e) := by
  cases e with
  | none => exact ⟨.kept _, by simp [answerOf, requireValid, Except.map, statusesOf], fun _ => rfl⟩
  | some v => exact ⟨.update rfl, by simp [answerOf, requireValid, Except.map, statusesOf], fun _ => rfl⟩

/-- Every command is `State.perform` of a function whose answers are those the rules give it. -/
theorem exec_answers (i : Instr) :
    ∃ f : Option Engine → Bytes → Except Error (Option Engine × Bytes),
      (∀ s, exec i s = s.perform f) ∧ ∀ m e, AnswerOk i m e (answerOf f m e) := by
  cases i with
  | init alg => exact ⟨_, fun _ => rfl, answerOk_init alg⟩
  | update => exact ⟨_, fun _ => rfl, answerOk_update⟩
  | digest =>
    exact ⟨_, fun _ => rfl, fun m =>
      answerOk_read (f := digestData) rfl fun _ => failsOnlyWith_map (noOperands_failsOnlyWith m) _⟩
  | hexdigest =>
    exact ⟨_, fun _ => rfl, fun m =>
      answerOk_read (f := hexdigestData) rfl fun _ => failsOnlyWith_map (noOperands_failsOnlyWith m) _⟩
  | compressMd5 | compressSha1 | compressSha256 | compressSha512 =>
    exact ⟨_, fun _ => rfl, fun m => answerOk_pure rfl (failsOnlyWith_map (compressOperands_failsOnlyWith _ m) _)⟩
  | pad alg =>
    exact ⟨_, fun _ => rfl, fun m => answerOk_pure rfl (failsOnlyWith_map (padOperand_failsOnlyWith m) _)⟩
  | rotl w amt | rotr w amt =>
    exact ⟨_, fun _ => rfl, fun m => answerOk_pure rfl (failsOnlyWith_map (rotateOperand_failsOnlyWith w m) _)⟩
  | pack order wsc =>
    exact ⟨_, fun _ => rfl, fun m => answerOk_pure rfl (failsOnlyWith_map (packOperands_failsOnlyWith wsc m) _)⟩
  | unpack order wsc =>
    exact ⟨_, fun _ => rfl, fun m => answerOk_pure rfl (failsOnlyWith_map (unpack_failsOnlyWith _ order m) _)⟩

/-- With a command in progress `exec` ends it with an answer the rules give it. -/
theorem exec_ends (i : Instr) {s : State} {r : Request} (h : s.Performing r) :
    ∃ e st d, exec i s = .next (s.complete e st d) ∧ AnswerOk i r.payload (s.engine s.active) (e, st, d) := by
  obtain ⟨f, hexec, hok⟩ := exec_answers i
  exact ⟨_, _, _, (hexec s).trans (perform_eq_complete h f), hok r.payload (s.engine s.active)⟩

/-- Settles O11: every command is `State.perform`, which finds no payload. -/
theorem execNeedsACommandInProgress : Obligations.ExecNeedsACommandInProgress := by
  intro i s h
  obtain ⟨f, hf⟩ := exec_eq_perform i
  rw [hf, State.perform, h]

/-- A command that answers had a payload, and it answered as the rules say. -/
theorem exec_eq_next {i : Instr} {s t : State} (h : exec i s = .next t) :
    ∃ r e st d, s.Performing r ∧ t = s.complete e st d ∧ AnswerOk i r.payload (s.engine s.active) (e, st, d) := by
  cases hport : s.port s.active with
  | none =>
    rw [execNeedsACommandInProgress i s hport] at h
    cases h
  | some r =>
    obtain ⟨e, st, d, hexec, hok⟩ := exec_ends i hport
    rw [hexec] at h
    cases h
    exact ⟨r, e, st, d, hport, rfl, hok⟩

/-! ## The frame of a command, rules R22, R33, R262 -/

/-- Settles O19: the one write of `State.complete` is that of the active instance. -/
theorem commandEndChangesOneInstance : Obligations.CommandEndChangesOneInstance :=
  fun s e st d => ⟨complete_engine_active s e st d, complete_port_active s e st d,
    fun _ => complete_inst_other s e st d, rfl, rfl, rfl, rfl⟩

/-- Settles O20: a command ends with one `State.complete`, whose engine only INIT and UPDATE write. -/
theorem commandTouchesOnlyItsInstance : Obligations.CommandTouchesOnlyItsInstance := by
  intro i s t h
  obtain ⟨r, e, st, d, -, rfl, hok⟩ := exec_eq_next h
  exact ⟨fun _ => complete_inst_other s e st d, complete_port_active s e st d, rfl, rfl, rfl, ⟨st, d, rfl⟩,
    fun hinit hupdate => (complete_engine_active s e st d).trans (hok.engine.eq_of_ne hinit hupdate)⟩

/-- Settles O23: the status is one of the answer's. -/
theorem commandReturnsItsListedStatuses : Obligations.CommandReturnsItsListedStatuses := by
  intro i s t h
  obtain ⟨r, e, st, d, -, rfl, hok⟩ := exec_eq_next h
  exact ⟨st, d, rfl, hok.status⟩

/-- Settles O22: by the five statuses. -/
theorem statusCodesAreZeroToFour : Obligations.StatusCodesAreZeroToFour := by
  refine ⟨rfl, rfl, rfl, rfl, rfl, fun st => ?_⟩
  cases st with
  | ok => decide
  | error e => cases e <;> decide

/-! ## ALG, rule R22 -/

theorem drain_alg (fuel : Nat) (v : Engine) : (drain fuel v).alg = v.alg := by
  induction fuel generalizing v with
  | zero => rfl
  | succ fuel ih =>
    by_cases hB : v.blockBytes ≤ v.buf.length
    · rw [drain_of_le fuel hB, ih, foldBlock_alg]
    · rw [drain_of_wf _ (Nat.lt_of_not_le hB)]

/-- Rule R22: absorbing bytes keeps the algorithm. -/
@[simp] theorem updateBody_alg (v : Engine) (m : Bytes) : (updateBody v m).alg = v.alg := drain_alg _ _

@[simp] theorem freshEngine_alg (alg : Alg) : (freshEngine alg).alg = alg := algOf_ivOf alg

/-- Rule R22: an engine a command leaves has the algorithm of the engine it found, or INIT's. -/
theorem EngineAfter.alg {m : Bytes} {i : Instr} {e e' : Option Engine} (h : EngineAfter m e i e') {v : Engine}
    (hv : e' = some v) : (∃ u, e = some u ∧ u.alg = v.alg) ∨ i = .init v.alg := by
  cases h with
  | kept => exact .inl ⟨v, hv, rfl⟩
  | init alg =>
    cases hv
    exact .inr (by rw [updateBody_alg, freshEngine_alg])
  | update hu =>
    cases hv
    exact .inl ⟨_, hu, (updateBody_alg _ _).symm⟩

/-- Settles O36: the engine is one that the command can leave. -/
theorem onlyInitWritesAlg : Obligations.OnlyInitWritesAlg := by
  intro i s t v h hv
  obtain ⟨r, e, st, d, -, rfl, hok⟩ := exec_eq_next h
  rw [complete_engine_active] at hv
  exact hok.engine.alg hv

/-- Rule R230: the pure commands are those that read their payload alone. -/
theorem exec_of_isPure {i : Instr} (h : isPure i = true) :
    ∃ f : Bytes → Except Error Bytes, ∀ s, exec i s = s.performPure f := by
  cases i with
  | init | update | digest | hexdigest => cases h
  | compressMd5 | compressSha1 | compressSha256 | compressSha512 => exact ⟨_, fun _ => rfl⟩
  | pad alg => exact ⟨_, fun _ => rfl⟩
  | rotl w amt | rotr w amt => exact ⟨_, fun _ => rfl⟩
  | pack order wsc | unpack order wsc => exact ⟨_, fun _ => rfl⟩

/-- Settles O37: both states answer with what the one function gives for the payload. -/
theorem pureCommandsIgnoreInstanceState : Obligations.PureCommandsIgnoreInstanceState := by
  intro i s t r hpure hs ht
  obtain ⟨f, hf⟩ := exec_of_isPure hpure
  rw [hf, hf]
  cases hr : f r.payload with
  | error e => exact ⟨_, _, performPure_error hs hr, performPure_error ht hr⟩
  | ok d => exact ⟨_, _, performPure_ok hs hr, performPure_ok ht hr⟩

/-! ## Idempotence, rule R47 -/

/-- A transaction ends with the answer of its command on the engine it finds. -/
theorem command_eq_answered {i : Instr} {f : Option Engine → Bytes → Except Error (Option Engine × Bytes)}
    (hexec : ∀ s, exec i s = s.perform f) (s : State) (n : Nat) (m : Bytes) :
    s.command n i m = .next (s.answered n i m (answerOf f m (s.engine n)).1 (answerOf f m (s.engine n)).2.1
      (answerOf f m (s.engine n)).2.2) := by
  rw [command_eq_exec, hexec, perform_eq_complete (presented_performing s n i m) f, presented_active,
    presented_engine, State.answered]

/-- A command other than UPDATE answers an engine it has left in the same way as the engine it found. -/
theorem exists_fixed_answer {i : Instr} (hi : i ≠ .update) (m : Bytes) (e : Option Engine) :
    ∃ e' st d, ∀ (s : State) (n : Nat), s.engine n = e ∨ s.engine n = e' →
      s.command n i m = .next (s.answered n i m e' st d) := by
  obtain ⟨f, hexec, hok⟩ := exec_answers i
  by_cases hinit : ∃ alg, i = .init alg
  · obtain ⟨alg, rfl⟩ := hinit
    exact ⟨_, _, _, fun s n _ => command_init s n alg m⟩
  · have hkept : (answerOf f m e).1 = e := (hok m e).engine.eq_of_ne (not_exists.mp hinit) hi
    refine ⟨(answerOf f m e).1, (answerOf f m e).2.1, (answerOf f m e).2.2, fun s n hn => ?_⟩
    rw [hkept, or_self] at hn
    rw [command_eq_answered hexec, hn]

/-- Settles O33: the second transaction finds the engine the first has left, and answers as the first did. -/
theorem commandsButUpdateAreIdempotent : Obligations.CommandsButUpdateAreIdempotent := by
  intro s n i p hi
  obtain ⟨e, st, d, hcommand⟩ := exists_fixed_answer hi p (s.engine n)
  have hfirst := hcommand s n (.inl rfl)
  have hsecond := hcommand (s.answered n i p e st d) n (.inr (engine_of_inst (answered_inst ..)))
  refine ⟨_, _, st, d, commands_cons [] hfirst, (commands_cons _ hfirst).trans (commands_cons [] hsecond),
    ?_, ?_, ?_⟩
  · rw [answered_inst, answered_inst]
  · exact answered_responses ..
  · simp

/-! ## The step, by the host's next action -/

/-- The host's index moves past the action it has, and stays where it has none. -/
theorem advance_pc_of_getElem? {s : State} {a : HostAction} (h : s.script[s.pc]? = some a) :
    s.advance.pc = s.pc + 1 :=
  advance_pc_of_lt s (List.getElem?_eq_some_iff.mp h).1

theorem nextMove_of_await {s : State} {n : Nat} (h : s.script[s.pc]? = some (.await n)) :
    s.nextMove = .perform n := by
  simp [State.nextMove, h]

theorem nextMove_of_firstBusy {s : State} {n : Nat} (h : s.script[s.pc]? = none)
    (hbusy : firstBusy s.instances = some n) : s.nextMove = .perform n := by
  simp [State.nextMove, h, hbusy]

theorem step_of_reset {s : State} (h : s.script[s.pc]? = some .reset) : step s = .next s.advance.resetBlock := by
  simp [step, State.nextMove, h]

/-- With a command in progress `performCommand` ends it, with an answer of the decoded command, or with
ILLEGAL_COMMAND and the engine it found. -/
theorem performCommand_ends {s : State} {n : Nat} {r : Request} (hport : s.port n = some r) :
    ∃ e st d, performCommand s n = .next ((s.advance.select n).complete e st d) ∧ (st ≠ .ok → d = []) ∧
      (e = s.engine n ∨ ∃ i, decode r.cmd = .ok i ∧ EngineAfter r.payload (s.engine n) i e) := by
  cases hdec : decode r.cmd with
  | error err => exact ⟨_, _, _, performCommand_illegal hport hdec, fun _ => rfl, .inl rfl⟩
  | ok i =>
    obtain ⟨e, st, d, hexec, hok⟩ := exec_ends i (s := s.advance.select n) hport
    exact ⟨e, st, d, (performCommand_decoded hport hdec).trans hexec, hok.data, .inr ⟨i, rfl, hok.engine⟩⟩

/-- Settles O5: the state `exec` runs on is the given one with its index advanced and the instance selected. -/
theorem stepRunsDecodedCommand : Obligations.StepRunsDecodedCommand := by
  intro s n r i hnext hport hdec
  have hmove : s.nextMove = .perform n :=
    hnext.elim nextMove_of_await fun ⟨hnone, hbusy⟩ => nextMove_of_firstBusy hnone hbusy
  exact ⟨_, step_decoded hmove hport hdec, rfl, rfl, rfl, rfl, rfl⟩

/-- Settles O7: a word that selects no row does not decode, and the step raises ILLEGAL_COMMAND. -/
theorem illegalWordRaisesIllegalCommand : Obligations.IllegalWordRaisesIllegalCommand := by
  intro s n r hmove hport hrows
  cases hdec : decode r.cmd with
  | error err =>
    exact ⟨_, step_illegal hmove hport hdec, rfl, complete_engine_self (s.advance.select n) _ _,
      complete_port_active (s.advance.select n) _ _ _, fun _ => complete_inst_other (s.advance.select n) _ _ _⟩
  | ok i =>
    obtain ⟨row, hrow, hselects, -⟩ := exists_row_of_decode hdec
    rw [hrows row hrow] at hselects
    cases hselects

/-- Settles O8: the step writes the port of the one instance and moves the host's index. -/
theorem presentedCommandIsInProgress : Obligations.PresentedCommandIsInProgress := by
  intro s n cmd p hpresent hn hidle
  refine ⟨_, (step_of_present hpresent).trans (accept_idle hn hidle), ?_, ?_,
    fun _ hm => setInst_inst_other s.advance hm _, advance_pc_of_getElem? hpresent, rfl, rfl⟩
  · simp [State.port]
  · simp [State.engine]

/-- Settles O12: the event empties the list of instances and nothing else. -/
theorem resetEventResetsEveryInstance : Obligations.ResetEventResetsEveryInstance :=
  fun _ hreset => ⟨_, step_of_reset hreset, fun _ => ⟨rfl, rfl, rfl⟩, rfl, rfl, advance_pc_of_getElem? hreset⟩

/-- Settles O13: no instance is listed, and there is no action and no command to perform. -/
theorem resetStateWaitsUninitialised : Obligations.ResetStateWaitsUninitialised :=
  ⟨fun _ => ⟨rfl, rfl, rfl⟩, rfl⟩

/-! ## A word placed from outside, log entry 5 -/

/-- An instance written at number 0 with a command in progress is the first busy one, whatever the list holds. -/
theorem firstBusy_store_zero (e : Option Engine) (q : Request) (l : List (Nat × Instance)) :
    firstBusy (storeInstance 0 { engine := e, port := some q } l) = some 0 := by
  rw [storeInstance, isReset_presented]
  cases l with
  | nil => rfl
  | cons x l => rcases Nat.eq_zero_or_pos x.1 with h | h <;> simp [insertInstance, h, firstBusy]

/-- The await placed at the host's index is its next action; past the end of the list the instance is busy. -/
theorem nextMove_withFetchWord (s : State) (nbits w : Nat) : (s.withFetchWord nbits w).nextMove = .perform 0 := by
  rcases Nat.lt_or_ge s.script.length s.pc with h | h
  · refine nextMove_of_firstBusy ?_ (firstBusy_store_zero ..)
    have hlen : (s.script ++ [HostAction.await 0]).length ≤ s.pc := by simpa using h
    simpa [State.withFetchWord, List.take_of_length_le h.le, List.drop_of_length_le h.le] using hlen
  · refine nextMove_of_await ?_
    simp [State.withFetchWord, h]

theorem decode_of_decodeTableWord {w : Nat} {i : Instr} (h : decodeTableWord 32 w = some i) :
    decode (BitVec.ofNat 32 (w % 2 ^ 32)) = .ok i := by
  rw [decodeTableWord, if_pos (Nat.mod_lt _ (Nat.two_pow_pos 32))] at h
  cases hdec : decode (BitVec.ofNat 32 (w % 2 ^ 32)) with
  | error e => rw [hdec] at h; cases h
  | ok j => rw [hdec] at h; cases h; rfl

@[simp] theorem withFetchWord_port (s : State) (nbits w : Nat) :
    (s.withFetchWord nbits w).port 0 =
      some { cmd := BitVec.ofNat 32 (w % 2 ^ nbits), payload := (s.port 0).elim [] Request.payload } :=
  congrArg Instance.port (setInst_inst_same s 0 _)

@[simp] theorem withFetchWord_engine (s : State) (nbits w m : Nat) :
    (s.withFetchWord nbits w).engine m = s.engine m := by
  by_cases hm : m = 0
  · subst hm
    simp [State.withFetchWord, State.engine, State.inst]
  · exact congrArg Instance.engine (setInst_inst_other s hm _)

/-- Settles O6: the placed word is performed next, on the state with the await passed. -/
theorem fetchedWordRunsNext : Obligations.FetchedWordRunsNext := by
  intro s w i h
  have hdec := decode_of_decodeTableWord h
  exact ⟨_, step_decoded (nextMove_withFetchWord s 32 w) (withFetchWord_port s 32 w) hdec, rfl,
    withFetchWord_engine s 32 w, ⟨_, withFetchWord_port s 32 w, hdec⟩, rfl⟩

/-! ## Refusals and the duty of the host, rules R50 and R295 -/

/-- No command is refused, and none faults. -/
theorem exists_performCommand (s : State) (n : Nat) : ∃ t, performCommand s n = .next t := by
  cases hport : s.port n with
  | none => exact ⟨_, performCommand_idle hport⟩
  | some r =>
    obtain ⟨e, st, d, h, -⟩ := performCommand_ends hport
    exact ⟨_, h⟩

theorem accept_absent {s : State} {n : Nat} {r : Request} (hn : Config.numInstances ≤ n) :
    s.accept n r = .refused (.noSuchInstance n) := by
  simp [State.accept, hn]

/-- Settles O10: of the five kinds of step only the presentation of a command can be refused, for an instance
that is absent or busy. -/
theorem onlyHostMistakesAreRefused : Obligations.OnlyHostMistakesAreRefused := by
  refine fun s => ⟨?_, fun n cmd p hpresent hn => (step_of_present hpresent).trans (accept_absent hn)⟩
  obtain ⟨n, cmd, p, hpresent, hstep⟩ | ⟨n, -, hstep⟩ | ⟨-, hstep⟩ | ⟨-, n, -, hstep⟩ | ⟨-, -, hstep⟩ := step_cases s
  · by_cases hn : Config.numInstances ≤ n
    · exact .inr ⟨n, cmd, p, hpresent, .inr ⟨hstep.trans (accept_absent hn), hn⟩⟩
    · have hlt := Nat.lt_of_not_le hn
      cases hport : s.port n with
      | none => exact .inl ⟨_, hstep.trans (accept_idle hlt hport)⟩
      | some q =>
        exact .inr ⟨n, cmd, p, hpresent, .inl ⟨hstep.trans (accept_busy hlt hport), by simp [hport]⟩⟩
  · exact .inl (hstep ▸ exists_performCommand s n)
  · exact .inl ⟨_, hstep⟩
  · exact .inl (hstep ▸ exists_performCommand s n)
  · exact .inl ⟨_, hstep⟩

/-- What performing the command of instance `n` does to the host and to the ports: the instance waits for no
response after it. -/
theorem performCommand_frame {s t : State} {n : Nat} (h : performCommand s n = .next t) :
    t.script = s.script ∧ t.pc = s.advance.pc ∧ ∀ m, t.port m = if m = n then none else s.port m := by
  cases hport : s.port n with
  | none =>
    rw [performCommand_idle hport] at h
    cases h
    refine ⟨rfl, rfl, fun m => ?_⟩
    by_cases hm : m = n <;> simp [hm, hport]
  | some r =>
    obtain ⟨e, st, d, hend, -⟩ := performCommand_ends hport
    rw [hend] at h
    cases h
    refine ⟨rfl, rfl, fun m => ?_⟩
    by_cases hm : m = n
    · rw [if_pos hm, hm]
      exact complete_port_active (s.advance.select n) e st d
    · rw [if_neg hm]
      exact congrArg Instance.port (complete_inst_other (s.advance.select n) e st d hm)

theorem drop_of_getElem? {s : State} {a : HostAction} (h : s.script[s.pc]? = some a) :
    s.script.drop s.pc = a :: s.script.drop (s.pc + 1) := by
  obtain ⟨hlt, rfl⟩ := List.getElem?_eq_some_iff.mp h
  exact List.drop_eq_getElem_cons hlt

/-- With no action left the host keeps its duty, whatever is in progress. -/
theorem hostDuty_of_end {s : State} (h : s.script.length ≤ s.pc) : s.HostDuty := by
  rw [State.HostDuty, List.drop_of_length_le h]
  trivial

/-- A state that has passed one action keeps the duty of the actions after it. -/
theorem hostDuty_of_rest {s t : State} {busy : Nat → Bool} (hrest : KeepsDuty busy (s.script.drop (s.pc + 1)))
    (hscript : t.script = s.script) (hpc : t.pc = s.pc + 1) (hbusy : ∀ m, (t.port m).isSome = busy m) :
    t.HostDuty := by
  rwa [State.HostDuty, hscript, hpc, funext hbusy]

/-- Settles O16: by the host's next action; each step leaves busy the instances that the duty says are. -/
theorem dutifulHostIsNeverRefused : Obligations.DutifulHostIsNeverRefused := by
  intro s hduty
  cases haction : s.script[s.pc]? with
  | none =>
    have hend : s.script.length ≤ s.pc := List.getElem?_eq_none_iff.mp haction
    cases hbusy : firstBusy s.instances with
    | none => exact ⟨s, by simp [step, State.nextMove, haction, hbusy], hduty⟩
    | some n =>
      obtain ⟨t, ht⟩ := exists_performCommand s n
      obtain ⟨hscript, hpc, -⟩ := performCommand_frame ht
      refine ⟨t, (step_of_perform (nextMove_of_firstBusy haction hbusy)).trans ht, hostDuty_of_end ?_⟩
      rwa [hscript, hpc, advance_pc_of_le s hend]
  | some a =>
    have hpc := advance_pc_of_getElem? haction
    rw [State.HostDuty, drop_of_getElem? haction] at hduty
    cases a with
    | present n cmd p =>
      obtain ⟨hn, hidle, hrest⟩ := hduty
      have hport : s.port n = none := by simpa using hidle
      refine ⟨_, (step_of_present haction).trans (accept_idle hn hport), hostDuty_of_rest hrest rfl hpc fun m => ?_⟩
      by_cases hm : m = n
      · simp [hm, State.port]
      · simp [hm, State.port, setInst_inst_other s.advance hm]
    | await n =>
      obtain ⟨t, ht⟩ := exists_performCommand s n
      obtain ⟨hscript, htpc, hports⟩ := performCommand_frame ht
      refine ⟨t, (step_of_perform (nextMove_of_await haction)).trans ht,
        hostDuty_of_rest hduty hscript (htpc.trans hpc) fun m => ?_⟩
      by_cases hm : m = n <;> simp [hports, hm]
    | reset => exact ⟨_, step_of_reset haction, hostDuty_of_rest hduty rfl hpc fun _ => rfl⟩

/-! ## The invariant, rules R24 and R261 -/

/-- Settles O14: nothing is listed. -/
theorem resetStateMeetsInvariant : Obligations.ResetStateMeetsInvariant where
  canonical := ⟨List.Pairwise.nil, by simp [State.reset]⟩
  buffers := by rintro n v ⟨⟩
  responses := by simp [State.reset]

/-- The invariant is about the engines, the canonical form and the responses alone. -/
theorem setInst_inv {s : State} (hs : s.Inv) (n : Nat) (x : Instance) (hx : ∀ v, x.engine = some v → v.Wf) :
    (s.setInst n x).Inv where
  canonical := storeInstance_canonical hs.canonical
  buffers m v hv := by
    by_cases hm : m = n
    · subst hm
      rw [State.engine, setInst_inst_same] at hv
      exact hx v hv
    · rw [State.engine, setInst_inst_other s hm] at hv
      exact hs.buffers m v hv
  responses := hs.responses

theorem complete_inv {s : State} (hs : s.Inv) {e : Option Engine} {st : Status} {d : Bytes}
    (he : ∀ v, e = some v → v.Wf) (hd : st ≠ .ok → d = []) : (s.complete e st d).Inv where
  canonical := (setInst_inv hs s.active { engine := e, port := none } he).canonical
  buffers := (setInst_inv hs s.active { engine := e, port := none } he).buffers
  responses r hr := by
    rw [complete_responses, List.mem_append, List.mem_singleton] at hr
    rcases hr with hr | rfl
    · exact hs.responses r hr
    · exact hd

theorem advance_inv {s : State} (hs : s.Inv) : s.advance.Inv := ⟨hs.canonical, hs.buffers, hs.responses⟩

theorem select_inv {s : State} (hs : s.Inv) (n : Nat) : (s.select n).Inv := ⟨hs.canonical, hs.buffers, hs.responses⟩

theorem resetBlock_inv {s : State} (hs : s.Inv) : s.resetBlock.Inv :=
  ⟨resetStateMeetsInvariant.canonical, resetStateMeetsInvariant.buffers, hs.responses⟩

theorem performCommand_inv {s t : State} {n : Nat} (hs : s.Inv) (h : performCommand s n = .next t) : t.Inv := by
  cases hport : s.port n with
  | none =>
    rw [performCommand_idle hport] at h
    cases h
    exact advance_inv hs
  | some r =>
    obtain ⟨e, st, d, hend, hd, he⟩ := performCommand_ends hport
    rw [hend] at h
    cases h
    refine complete_inv (select_inv (advance_inv hs) n) ?_ hd
    rcases he with rfl | ⟨i, -, he⟩
    · exact hs.buffers n
    · exact he.wf (hs.buffers n)

theorem accept_inv {s t : State} {n : Nat} {r : Request} (hs : s.Inv) (h : s.accept n r = .next t) : t.Inv := by
  by_cases hn : Config.numInstances ≤ n
  · rw [accept_absent hn] at h
    cases h
  · have hlt := Nat.lt_of_not_le hn
    cases hport : s.port n with
    | none =>
      rw [accept_idle hlt hport] at h
      cases h
      exact setInst_inv (advance_inv hs) n _ (hs.buffers n)
    | some q =>
      rw [accept_busy hlt hport] at h
      cases h

/-- Settles O15: by what the step is; the operations keep the invariant, and so does the answer of a command. -/
theorem stepKeepsInvariant : Obligations.StepKeepsInvariant := by
  intro s t hs h
  obtain ⟨n, cmd, p, -, hstep⟩ | ⟨n, -, hstep⟩ | ⟨-, hstep⟩ | ⟨-, n, -, hstep⟩ | ⟨-, -, hstep⟩ := step_cases s
  · exact accept_inv hs (hstep.symm.trans h)
  · exact performCommand_inv hs (hstep.symm.trans h)
  · cases hstep.symm.trans h
    exact resetBlock_inv (advance_inv hs)
  · exact performCommand_inv hs (hstep.symm.trans h)
  · cases hstep.symm.trans h
    exact hs

end Sys2Proof.Machine

/-! SUPPORT. The life of VALID over a step, the end of every command in progress, and the transaction as two steps.

A step writes an engine in three ways (`engine_of_step`); with no action left it ends one command, which the number
of busy instances counts, since the canonical form lists no number twice. -/

namespace Sys2Proof.Machine

/-! ## VALID over a step, rules R21 and R293 -/

theorem validFlag_inst (s : State) (n : Nat) : validFlag (s.inst n) = (s.engine n).isSome := rfl

theorem engine_of_accept {s t : State} {n : Nat} {r : Request} (h : s.accept n r = .next t) (m : Nat) :
    t.engine m = s.engine m := by
  unfold State.accept at h
  split at h
  next => cases h
  next =>
    split at h
    next => cases h
    next =>
      cases h
      by_cases hm : m = n
      · simp [hm, State.engine]
      · exact engine_of_inst (setInst_inst_other s.advance hm _)

/-- An engine after performing the command of instance `n` is the one before, or `n`'s with an answer of its
command. -/
theorem engine_of_performCommand {s t : State} {n : Nat} (h : performCommand s n = .next t) (m : Nat) :
    t.engine m = s.engine m ∨ m = n ∧ ∃ r i, s.port n = some r ∧ decode r.cmd = .ok i ∧
      EngineAfter r.payload (s.engine n) i (t.engine n) := by
  cases hport : s.port n with
  | none =>
    rw [performCommand_idle hport] at h
    cases h
    exact .inl rfl
  | some r =>
    obtain ⟨e, st, d, hend, -, he⟩ := performCommand_ends hport
    rw [hend] at h
    cases h
    by_cases hm : m = n
    · subst hm
      have hengine := complete_engine_active (s.advance.select m) e st d
      rw [select_active] at hengine
      rw [hengine]
      exact he.imp id fun ⟨i, hdec, hi⟩ => ⟨rfl, r, i, rfl, hdec, hi⟩
    · exact .inl (complete_engine_other (s.advance.select n) e st d hm)

/-- A command clears no VALID, and sets it only as an INIT. -/
theorem EngineAfter.isSome {m : Bytes} {i : Instr} {e e' : Option Engine} (h : EngineAfter m e i e') :
    (e.isSome = true → e'.isSome = true) ∧
      (e.isSome = false → e'.isSome = true → ∃ alg, i = .init alg) := by
  cases h with
  | kept => exact ⟨id, fun hf ht => by simp [hf] at ht⟩
  | init alg => exact ⟨fun _ => rfl, fun _ _ => ⟨alg, rfl⟩⟩
  | update hv => exact ⟨fun _ => rfl, fun hf => by simp [hv] at hf⟩

/-- An engine after a step is the one before it, or none after the reset event, or the one its own command
leaves. -/
theorem engine_of_step {s t : State} (h : step s = .next t) (n : Nat) :
    t.engine n = s.engine n ∨ (s.script[s.pc]? = some .reset ∧ t.engine n = none) ∨
      ∃ r i, s.nextMove = .perform n ∧ s.port n = some r ∧ decode r.cmd = .ok i ∧
        EngineAfter r.payload (s.engine n) i (t.engine n) := by
  obtain ⟨k, cmd, p, -, hstep⟩ | ⟨k, hawait, hstep⟩ | ⟨hreset, hstep⟩ | ⟨hnone, k, hbusy, hstep⟩ | ⟨-, -, hstep⟩ :=
    step_cases s
  · exact .inl (engine_of_accept (hstep.symm.trans h) n)
  · refine (engine_of_performCommand (hstep.symm.trans h) n).imp id ?_
    rintro ⟨rfl, r, i, hafter⟩
    exact .inr ⟨r, i, nextMove_of_await hawait, hafter⟩
  · cases hstep.symm.trans h
    exact .inr (.inl ⟨hreset, rfl⟩)
  · refine (engine_of_performCommand (hstep.symm.trans h) n).imp id ?_
    rintro ⟨rfl, r, i, hafter⟩
    exact .inr ⟨r, i, nextMove_of_firstBusy hnone hbusy, hafter⟩
  · cases hstep.symm.trans h
    exact .inl rfl

/-- Settles O35: of the ways a step can write an engine only the reset event clears it, and only INIT makes one
where there was none. -/
theorem onlyResetClearsValid : Obligations.OnlyResetClearsValid := by
  intro s t n h
  rw [validFlag_inst, validFlag_inst]
  rcases engine_of_step h n with heq | ⟨hreset, hnone⟩ | ⟨r, i, hmove, hport, hdec, hafter⟩
  · exact ⟨fun _ => by simp [heq], fun hclear hset => by simp [heq, hclear] at hset⟩
  · exact ⟨fun hne => absurd hreset hne, fun _ hset => by simp [hnone] at hset⟩
  · obtain ⟨hkept, hset⟩ := hafter.isSome
    refine ⟨fun _ => hkept, fun hclear hvalid => ?_⟩
    obtain ⟨alg, rfl⟩ := hset hclear hvalid
    exact ⟨r, alg, hmove, hport, hdec⟩

/-! ## The end of every command in progress, rules R240 and R297 -/

/-- Busy instances as a number: an instance counts 1 or 0. -/
def busyOne (x : Instance) : Nat := if x.port.isSome then 1 else 0

theorem busyCount_cons (e : Nat × Instance) (l : List (Nat × Instance)) :
    busyCount (e :: l) = busyCount l + busyOne e.2 := by
  simp [busyCount, busyOne, List.countP_cons]

/-- An instance below every number listed is as after reset. -/
theorem instanceAt_of_lt {n : Nat} {l : List (Nat × Instance)} (h : ∀ k ∈ l.map Prod.fst, n < k) :
    instanceAt l n = Instance.reset := by
  induction l with
  | nil => rfl
  | cons e l ih =>
    obtain ⟨hk, hl⟩ := List.forall_mem_cons.mp h
    rw [instanceAt, if_neg hk.ne, ih hl]

/-- Replacing the instance of a number counts the new one and not the old one. -/
theorem busyCount_insertInstance {l : List (Nat × Instance)} (hl : (l.map Prod.fst).Pairwise (· < ·)) (n : Nat)
    (x : Instance) : busyCount (insertInstance n x l) + busyOne (instanceAt l n) = busyCount l + busyOne x := by
  induction l with
  | nil => simp [insertInstance, busyCount_cons, instanceAt, busyOne, Instance.reset]
  | cons e l ih =>
    obtain ⟨k, y⟩ := e
    obtain ⟨hk, hl⟩ := List.pairwise_cons.mp hl
    rcases Nat.lt_trichotomy n k with hlt | rfl | hgt
    · have habsent : instanceAt ((k, y) :: l) n = Instance.reset :=
        instanceAt_of_lt (List.forall_mem_cons.mpr ⟨hlt, fun j hj => hlt.trans (hk j hj)⟩)
      rw [habsent, insertInstance, if_pos hlt, busyCount_cons]
      rfl
    · simp only [insertInstance, lt_irrefl, if_false, if_true, instanceAt, busyCount_cons]
      omega
    · have := ih hl
      simp only [insertInstance, Nat.lt_asymm hgt, Nat.ne_of_gt hgt, if_false, instanceAt, busyCount_cons]
      omega

theorem filter_ne_of_lt {n : Nat} {l : List (Nat × Instance)} (h : ∀ k ∈ l.map Prod.fst, n < k) :
    l.filter (fun e => decide (e.1 ≠ n)) = l :=
  List.filter_eq_self.mpr fun e he => decide_eq_true (h e.1 (List.mem_map_of_mem he)).ne'

/-- Dropping the instance of a number does not count it any more. -/
theorem busyCount_filter {l : List (Nat × Instance)} (hl : (l.map Prod.fst).Pairwise (· < ·)) (n : Nat) :
    busyCount (l.filter fun e => decide (e.1 ≠ n)) + busyOne (instanceAt l n) = busyCount l := by
  induction l with
  | nil => rfl
  | cons e l ih =>
    obtain ⟨k, y⟩ := e
    obtain ⟨hk, hl⟩ := List.pairwise_cons.mp hl
    by_cases hn : n = k
    · subst hn
      rw [List.filter_cons_of_neg (by simp), filter_ne_of_lt hk, instanceAt, if_pos rfl, busyCount_cons]
    · have := ih hl
      rw [List.filter_cons_of_pos (by simpa using Ne.symm hn), instanceAt, if_neg hn, busyCount_cons, busyCount_cons]
      omega

theorem busyCount_storeInstance {l : List (Nat × Instance)} (hl : (l.map Prod.fst).Pairwise (· < ·)) (n : Nat)
    (x : Instance) : busyCount (storeInstance n x l) + busyOne (instanceAt l n) = busyCount l + busyOne x := by
  unfold storeInstance
  split
  next hx =>
    rw [(isReset_iff x).mp hx]
    exact busyCount_filter hl n
  next => exact busyCount_insertInstance hl n x

/-- The first busy instance is the one its number names, since no number is listed twice. -/
theorem port_of_firstBusy {l : List (Nat × Instance)} (hl : (l.map Prod.fst).Pairwise (· < ·)) {n : Nat}
    (h : firstBusy l = some n) : n ∈ l.map Prod.fst ∧ (instanceAt l n).port.isSome = true := by
  induction l with
  | nil => cases h
  | cons e l ih =>
    obtain ⟨k, y⟩ := e
    obtain ⟨hk, hl⟩ := List.pairwise_cons.mp hl
    rw [firstBusy] at h
    split at h
    next hy =>
      cases h
      simpa [instanceAt] using hy
    next =>
      obtain ⟨hmem, hbusy⟩ := ih hl h
      exact ⟨List.mem_cons_of_mem k hmem, by rwa [instanceAt, if_neg (hk n hmem).ne']⟩

theorem firstBusy_of_busyCount {l : List (Nat × Instance)} (h : busyCount l ≠ 0) : ∃ n, firstBusy l = some n := by
  induction l with
  | nil => exact absurd rfl h
  | cons e l ih =>
    obtain ⟨k, y⟩ := e
    by_cases hy : y.port.isSome
    · exact ⟨k, if_pos hy⟩
    · rw [busyCount_cons, busyOne, if_neg hy] at h
      obtain ⟨n, hn⟩ := ih h
      exact ⟨n, (if_neg hy).trans hn⟩

theorem port_of_busyCount_eq_zero {l : List (Nat × Instance)} (h : busyCount l = 0) (n : Nat) :
    (instanceAt l n).port = none := by
  induction l with
  | nil => rfl
  | cons e l ih =>
    obtain ⟨k, y⟩ := e
    rw [busyCount_cons] at h
    rw [instanceAt]
    split
    next =>
      by_contra hy
      simp [busyOne, Option.isSome_iff_ne_none.mpr hy] at h
    next => exact ih (by omega)

/-- With no action left a step ends one of the commands in progress, with one response. -/
theorem step_ends_one {s : State} (hs : s.Inv) (hend : s.script.length ≤ s.pc) {k : Nat}
    (hk : busyCount s.instances = k + 1) :
    ∃ t, step s = .next t ∧ t.Inv ∧ t.script.length ≤ t.pc ∧ busyCount t.instances = k ∧
      t.responses.length = s.responses.length + 1 := by
  have hrising := hs.canonical.1
  obtain ⟨n, hn⟩ := firstBusy_of_busyCount (l := s.instances) (by omega)
  have hbusy := (port_of_firstBusy hrising hn).2
  obtain ⟨r, hport⟩ := Option.isSome_iff_exists.mp hbusy
  have hmove := nextMove_of_firstBusy (List.getElem?_eq_none_iff.mpr hend) hn
  obtain ⟨e, st, d, hperform, -⟩ := performCommand_ends (s := s) hport
  have hstep := (step_of_perform hmove).trans hperform
  refine ⟨_, hstep, stepKeepsInvariant s _ hs hstep, ?_, ?_, by simp⟩
  · rw [complete_script, complete_pc, select_script, select_pc, advance_script, advance_pc_of_le s hend]
    exact hend
  · have hcount := busyCount_storeInstance hrising n { engine := e, port := none }
    rw [busyOne, if_pos hbusy, busyOne, if_neg (by simp), hk] at hcount
    rw [complete_instances, select_instances, select_active, advance_instances]
    omega

theorem core_run_succ {s t : State} (h : step s = .next t) (k : Nat) :
    Sys2Proof.core.run (k + 1) s = Sys2Proof.core.run k t := by
  simp only [Host.Core.run, Sys2Proof.core, h]

/-- Settles O17: by the number of commands in progress, each step ending one. -/
theorem commandsInProgressAllEnd : Obligations.CommandsInProgressAllEnd := by
  intro s
  generalize hk : busyCount s.instances = k
  induction k generalizing s with
  | zero => exact fun _ _ => ⟨s, rfl, port_of_busyCount_eq_zero hk, rfl⟩
  | succ k ih =>
    intro hs hend
    obtain ⟨t, hstep, ht, htend, htk, hresponses⟩ := step_ends_one hs hend hk
    obtain ⟨u, hrun, hports, hu⟩ := ih t htk ht htend
    exact ⟨u, (core_run_succ hstep k).trans hrun, hports, by omega⟩

/-! ## The transaction as two steps, rules R60 and R296 -/

theorem core_run_one (s : State) : Sys2Proof.core.run 1 s = step s := by
  simp only [Host.Core.run, Sys2Proof.core]
  cases step s <;> rfl

theorem advance_eq_of_getElem? {s : State} {a : HostAction} (h : s.script[s.pc]? = some a) :
    s.advance = { s with pc := s.pc + 1 } := by
  rw [State.advance, if_pos (List.getElem?_eq_some_iff.mp h).1]

/-- Settles O18: the first step puts the command into the port, and the second, which awaits it, decodes the word
back to the command. -/
theorem transactionIsPresentThenAwait : Obligations.TransactionIsPresentThenAwait := by
  intro s n i p hi hn hidle hpresent hawait
  have hpc := advance_pc_of_getElem? hpresent
  rw [core_run_succ ((step_of_present hpresent).trans (accept_idle hn hidle)), core_run_one]
  set u : State := s.advance.setInst n { engine := s.engine n, port := some { cmd := encode i, payload := p } }
  have hupc : u.pc = s.pc + 1 := hpc
  have huawait : u.script[u.pc]? = some (.await n) := by rwa [hupc]
  have hport : u.port n = some { cmd := encode i, payload := p } :=
    congrArg Instance.port (setInst_inst_same s.advance n _)
  rw [step_decoded (nextMove_of_await huawait) hport (decodeOfEncodeIsTheCommand i hi), State.command]
  rw [advance_eq_of_getElem? huawait, hupc]
  rfl

end Sys2Proof.Machine

/-! SUPPORT. The engine in closed form (46_engine.md rules R232 to R239, 41_padding.md rules R120 to R124).

`Engine.folded` is what the update loop leaves: the whole blocks of BUF folded into H, the rest in BUF.  INIT, UPDATE
and the total of the bytes are read off it, and DIGEST of an incremental computation is one more UPDATE, of the
padding. -/

namespace Sys2Proof.Machine

/-! ## Folding whole blocks, rules R41 and R233 -/

theorem foldBlocks_of_lt {B : Nat} {t : Bytes} (h : t.length < B) (g : HashState) : foldBlocks g B t = g := by
  rw [foldBlocks, Nat.div_eq_of_lt h]
  rfl

/-- The first block is folded first. -/
theorem foldBlocks_of_le {B : Nat} (hB : 0 < B) {t : Bytes} (h : B ≤ t.length) (g : HashState) :
    foldBlocks g B t = foldBlocks (compress g (t.take B)) B (t.drop B) := by
  have hcount : t.length / B = (t.drop B).length / B + 1 := by
    rw [List.length_drop, ← Nat.add_div_right _ hB, Nat.sub_add_cancel h]
  have hfirst : slice t (0 * B) (0 * B + B) = t.take B := by simp [slice]
  have hrest (j : Nat) : slice t ((j + 1) * B) ((j + 1) * B + B) = slice (t.drop B) (j * B) (j * B + B) := by
    simp [slice, Nat.succ_mul, Nat.add_comm B]
  rw [foldBlocks, hcount, List.range_succ_eq_map, List.foldl_cons, hfirst, List.foldl_map]
  simp only [hrest, foldBlocks, Nat.succ_eq_add_one]

/-- Rules R234 and R237: a tail of one block. -/
theorem foldBlocks_one {B : Nat} (hB : 0 < B) {t : Bytes} (h : t.length = B) (g : HashState) :
    foldBlocks g B t = compress g t := by
  rw [foldBlocks_of_le hB h.ge, List.take_of_length_le h.le, foldBlocks_of_lt (by simpa [h] using hB)]

/-- Rules R234 and R237: a tail of two blocks. -/
theorem foldBlocks_two {B : Nat} (hB : 0 < B) {t : Bytes} (h : t.length = 2 * B) (g : HashState) :
    foldBlocks g B t = compress (compress g (t.take B)) (t.drop B) := by
  rw [foldBlocks_of_le hB (by omega), foldBlocks_one hB (by rw [List.length_drop]; omega)]

/-! ## The update loop in closed form, rule R233 -/

/-- Rule R233: the whole blocks of BUF folded into H in order, the rest in BUF, their number added to BLOCKS. -/
def Engine.folded (v : Engine) : Engine :=
  { h := foldBlocks v.h v.blockBytes v.buf,
    buf := v.buf.drop (v.buf.length / v.blockBytes * v.blockBytes),
    blocks := v.blocks + v.buf.length / v.blockBytes }

theorem folded_of_wf {v : Engine} (hv : v.Wf) : v.folded = v := by
  simp [Engine.folded, foldBlocks_of_lt hv, Nat.div_eq_of_lt hv]

@[simp] theorem foldBlock_blockBytes (v : Engine) : v.foldBlock.blockBytes = v.blockBytes :=
  congrArg blockSize (foldBlock_alg v)

theorem foldBlock_h (v : Engine) : v.foldBlock.h = compress v.h (v.buf.take v.blockBytes) := by
  simp [Engine.foldBlock, slice]

theorem foldBlock_buf (v : Engine) : v.foldBlock.buf = v.buf.drop v.blockBytes := rfl

theorem foldBlock_blocks (v : Engine) : v.foldBlock.blocks = v.blocks + 1 := rfl

/-- One pass of the loop leaves the closed form as it is. -/
theorem folded_foldBlock {v : Engine} (hv : v.blockBytes ≤ v.buf.length) : v.foldBlock.folded = v.folded := by
  have hB := blockBytes_pos v
  have hcount : v.buf.length / v.blockBytes = 1 + (v.buf.length - v.blockBytes) / v.blockBytes := by
    rw [Nat.add_comm, ← Nat.add_div_right _ hB, Nat.sub_add_cancel hv]
  simp only [Engine.folded, foldBlock_blockBytes, foldBlock_h, foldBlock_buf, foldBlock_blocks,
    foldBlocks_of_le hB hv, hcount, List.length_drop, List.drop_drop, Nat.add_mul, Nat.one_mul, Nat.add_assoc]

theorem drain_eq_folded {fuel : Nat} {v : Engine} (h : v.buf.length ≤ fuel) : drain fuel v = v.folded := by
  induction fuel generalizing v with
  | zero => exact (folded_of_wf (Nat.lt_of_le_of_lt h (blockBytes_pos v))).symm
  | succ fuel ih =>
    by_cases hB : v.blockBytes ≤ v.buf.length
    · rw [drain_of_le fuel hB, ih (foldBlock_buf_length_le h), folded_foldBlock hB]
    · have hv : v.Wf := Nat.lt_of_not_le hB
      rw [drain_of_wf _ hv, folded_of_wf hv]

/-- Rule R233 in closed form. -/
theorem updateBody_eq_folded (v : Engine) (m : Bytes) : updateBody v m = (v.extend m).folded :=
  drain_eq_folded le_rfl

theorem exec_init_ok {s : State} {r : Request} (alg : Alg) (hs : s.Performing r) :
    exec (.init alg) s = .next (s.complete (some (updateBody (freshEngine alg) r.payload)) .ok []) := by
  rw [exec_init]
  exact performWrite_ok hs rfl

/-- Settles O25: the closed form of the loop, on the fresh engine. -/
theorem initLoadsInitialValueAndAbsorbs : Obligations.InitLoadsInitialValueAndAbsorbs := by
  intro alg s r hs
  have hB : ((freshEngine alg).extend r.payload).blockBytes = blockSize alg := congrArg blockSize (algOf_ivOf alg)
  rw [exec_init_ok alg hs, updateBody_eq_folded, Engine.folded, hB]
  simp [Engine.extend, freshEngine]

theorem exec_update_ok {s : State} {r : Request} {v : Engine} (hs : s.Performing r)
    (hv : s.engine s.active = some v) :
    exec .update s = .next (s.complete (some (updateBody v r.payload)) .ok []) := by
  rw [exec_update]
  exact performWrite_ok hs (by rw [hv]; rfl)

/-- Settles O26: the closed form of the loop, on the engine with the payload behind BUF. -/
theorem updateFoldsWholeBlocks : Obligations.UpdateFoldsWholeBlocks := by
  intro s r v hs hv
  rw [exec_update_ok hs hv, updateBody_eq_folded, Engine.folded, extend_blockBytes]
  simp [Engine.extend]

/-! ## The bytes absorbed, rule R25 -/

theorem folded_alg (v : Engine) : v.folded.alg = v.alg := algOf_foldBlocks ..

/-- Folding whole blocks moves bytes from BUF to BLOCKS. -/
theorem folded_totalBytes (v : Engine) : v.folded.totalBytes = v.totalBytes := by
  have hdiv := Nat.div_add_mod' v.buf.length v.blockBytes
  rw [Engine.totalBytes, Engine.blockBytes, folded_alg, ← Engine.blockBytes, Engine.totalBytes]
  simp only [Engine.folded, List.length_drop, Nat.add_mul]
  omega

/-- Rule R25: update_body counts the bytes of its part. -/
theorem updateBody_totalBytes (v : Engine) (m : Bytes) :
    (updateBody v m).totalBytes = v.totalBytes + m.length := by
  rw [updateBody_eq_folded, folded_totalBytes]
  simp [Engine.totalBytes, Engine.extend, Nat.add_assoc, Engine.blockBytes, Engine.alg]

@[simp] theorem freshEngine_totalBytes (alg : Alg) : (freshEngine alg).totalBytes = 0 := by
  simp [Engine.totalBytes, freshEngine]

theorem totalBytes_of_alg {v : Engine} {alg : Alg} (h : v.alg = alg) :
    v.totalBytes = v.blocks * blockSize alg + v.buf.length := by
  rw [Engine.totalBytes, Engine.blockBytes, h]

/-- Settles O29: the total of update_body, after INIT's fresh engine and after the engine UPDATE found. -/
theorem totalBytesAreCounted : Obligations.TotalBytesAreCounted := by
  refine fun s r hs => ⟨fun alg => ?_, fun u hu => ?_⟩
  · have halg : (updateBody (freshEngine alg) r.payload).alg = alg := by rw [updateBody_alg, freshEngine_alg]
    refine ⟨_, _, exec_init_ok alg hs, complete_engine_active .., halg, updateBody_wf _ _, ?_⟩
    rw [← totalBytes_of_alg halg, updateBody_totalBytes, freshEngine_totalBytes, Nat.zero_add]
  · have halg := updateBody_alg u r.payload
    refine ⟨_, _, exec_update_ok hs hu, complete_engine_active .., halg, updateBody_wf _ _, ?_⟩
    rw [← totalBytes_of_alg halg, updateBody_totalBytes, totalBytes_of_alg rfl]

/-! ## DIGEST, rules R234 and R238 -/

/-- Rule R234: the digest is the hash state that an UPDATE with the padding would leave. -/
theorem digestBytes_eq_updateBody (v : Engine) :
    v.digestBytes = hashBytes (updateBody v (algPadding v.alg v.totalBytes)).h := by
  rw [updateBody_eq_folded]
  rfl

/-- Rule R238(a): of an incremental computation the digest is that of all its bytes and their padding. -/
theorem digestBytes_updateBody_freshEngine (alg : Alg) (m : Bytes) :
    (updateBody (freshEngine alg) m).digestBytes =
      hashBytes (foldBlocks (ivOf alg) (blockSize alg) (m ++ algPadding alg m.length)) := by
  rw [digestBytes_eq_updateBody, updateBody_alg, freshEngine_alg, updateBody_totalBytes, freshEngine_totalBytes,
    Nat.zero_add, updateBody_updateBody, updateBody_eq_folded]
  simp [Engine.folded, Engine.extend, freshEngine, Engine.blockBytes, Engine.alg]

/-- Settles O32: DIGEST reads the engine INIT leaves, whose digest is that of all its bytes. -/
theorem incrementalDigestIsOneShotHash : Obligations.IncrementalDigestIsOneShotHash := by
  intro s n alg m padded
  have hdigest := command_digest (engine_of_inst
    (answered_inst s n (.init alg) m (some (updateBody (freshEngine alg) m)) .ok []))
  refine ⟨_, (commands_cons _ (command_init s n alg m)).trans (commands_cons [] hdigest), ?_⟩
  rw [answered_responses, answered_responses, digestBytes_updateBody_freshEngine, List.append_assoc]
  rfl

/-- Rule R24: BUF holds the bytes of the message behind its whole blocks. -/
theorem totalBytes_mod {v : Engine} (hv : v.Wf) : v.totalBytes % v.blockBytes = v.buf.length := by
  rw [Engine.totalBytes, Nat.mul_add_mod_self_right, Nat.mod_eq_of_lt hv]

/-- Settles O27: the padded tail is one block or two, by the threshold of rule R121. -/
theorem digestCompressesOneOrTwoBlocks : Obligations.DigestCompressesOneOrTwoBlocks := by
  intro s r v hs hv hwf hp B L t d
  have hB : 0 < B := blockSize_pos v.alg
  have hL : 1 + L ≤ B := one_add_lengthSize_le_blockSize v.alg
  have htail : v.totalBytes % B = v.buf.length := totalBytes_mod hwf
  have hd : v.digestBytes = d := by
    change hashBytes (foldBlocks v.h B t) = d
    by_cases hle : v.buf.length ≤ B - 1 - L
    · have hpad := tail_add_padding_of_le (T := v.totalBytes) (L := L) hB (by omega) (byteOrder v.alg)
      have ht : t.length = B := by rw [← hpad, htail]; exact List.length_append
      rw [foldBlocks_one hB ht]
      exact (if_pos hle).symm
    · have hpad := tail_add_padding_of_lt (T := v.totalBytes) hL (by omega) (byteOrder v.alg)
      have ht : t.length = 2 * B := by rw [← hpad, htail]; exact List.length_append
      rw [foldBlocks_two hB ht]
      exact (if_neg hle).symm
  rw [← hd]
  exact ⟨exec_digest_ok hs hv hp, digestBytes_length v⟩

/-! ## The period of the padding, rule R124 and decision D13 -/

/-- A period of the length field is whole blocks. -/
theorem blockSize_dvd (alg : Alg) : blockSize alg ∣ 2 ^ (8 * lengthSize alg - 3) := by cases alg <;> decide

/-- Rule R124: the bit length as a field depends on the length modulo the field's bytes. -/
theorem bitLength_eq (alg : Alg) (T : Nat) :
    bitLength T (lengthSize alg) = 8 * (T % 2 ^ (8 * lengthSize alg - 3)) := by
  have hfield : 2 ^ (8 * lengthSize alg) = 8 * 2 ^ (8 * lengthSize alg - 3) := by cases alg <;> decide
  rw [bitLength, hfield, Nat.mul_mod_mul_left]

/-- Rule R124: messages whose lengths agree modulo the period of the field have the same padding. -/
theorem algPadding_congr {alg : Alg} {T T' : Nat} (h : T ≡ T' [MOD 2 ^ (8 * lengthSize alg - 3)]) :
    algPadding alg T = algPadding alg T' := by
  have hblock : T + 1 + lengthSize alg ≡ T' + 1 + lengthSize alg [MOD blockSize alg] :=
    ((h.of_dvd (blockSize_dvd alg)).add_right 1).add_right _
  have hzeros : padZeros T (blockSize alg) (lengthSize alg) = padZeros T' (blockSize alg) (lengthSize alg) := by
    rw [padZeros, padZeros, hblock]
  rw [algPadding, algPadding, padding, padding, hzeros, bitLength_eq, bitLength_eq, h]

/-- Settles O42: the field ends the padding, and a longer message agrees modulo the period. -/
theorem lengthFieldWrapsSilently : Obligations.LengthFieldWrapsSilently := by
  intro alg T L p
  have hrange : bitLength T L < 2 ^ (8 * L) := Nat.mod_lt _ (Nat.two_pow_pos _)
  refine ⟨?_, algPadding_congr (Nat.add_mod_right _ _)⟩
  rw [show p.drop (p.length - L) = pack L (byteOrder alg) [bitLength T L] from padding_drop_eq_lengthField ..,
    pack_singleton, wordValue_packWord _ hrange, bitLength]

/-- The bytes of 2^118 blocks are whole periods of the length field. -/
theorem period_dvd_blocks (alg : Alg) : 2 ^ (8 * lengthSize alg - 3) ∣ 2 ^ 118 * blockSize alg := by
  cases alg <;> decide

theorem digestBytes_wrap (v : Engine) :
    ({ v with blocks := v.blocks % 2 ^ 118 } : Engine).digestBytes = v.digestBytes := by
  have htotal : ({ v with blocks := v.blocks % 2 ^ 118 } : Engine).totalBytes ≡ v.totalBytes
      [MOD 2 ^ (8 * lengthSize v.alg - 3)] :=
    (((Nat.mod_modEq v.blocks (2 ^ 118)).mul_right' (blockSize v.alg)).of_dvd (period_dvd_blocks v.alg)).add_right _
  have hpadding := algPadding_congr htotal
  change hashBytes (foldBlocks v.h v.blockBytes (v.buf ++ algPadding v.alg _)) = _
  rw [hpadding]
  rfl

/-- Settles O34: 2^118 blocks are a multiple of the period of the length field, in all four algorithms. -/
theorem blocksCounterMayWrapAt118Bits : Obligations.BlocksCounterMayWrapAt118Bits :=
  fun _ _ _ v hs ht hp hv hw =>
    ⟨v.digestBytes, exec_digest_ok hs hv hp, digestBytes_wrap v ▸ exec_digest_ok ht hw hp⟩

end Sys2Proof.Machine

/-! SUPPORT. The pure commands on operands of their length and range (30_encoding.md rules R68 to R70,
40_utils.md rules R105 to R109, 41_padding.md rules R120 and R125). -/

namespace Sys2Proof.Machine

/-! ## COMPRESS and the bytes of a hash state, rules R70 and R237 -/

/-- Rule R70: a payload of one state and one block is cut behind the state. -/
theorem compressData_ok {alg : Alg} {p : Bytes} (h : p.length = stateSize alg + blockSize alg) :
    compressData alg p = .ok (hashBytes
      (compress (hashStateOfBytes alg (p.take (stateSize alg))) (p.drop (stateSize alg)))) := by
  have hstate : slice p 0 (stateSize alg) = p.take (stateSize alg) := rfl
  have hblock : slice p (stateSize alg) (stateSize alg + blockSize alg) = p.drop (stateSize alg) :=
    List.take_of_length_le (by rw [List.length_drop]; omega)
  rw [compressData, compressOperands, if_neg (not_not.mpr h), hstate, hblock]
  rfl

/-- Settles O38: the four algorithms at the lengths of their state and block. -/
theorem compressReturnsNewState : Obligations.CompressReturnsNewState := by
  intro s r hs
  exact ⟨fun h => performPure_ok hs (compressData_ok (alg := .md5) h),
    fun h => performPure_ok hs (compressData_ok (alg := .sha1) h),
    fun h => performPure_ok hs (compressData_ok (alg := .sha256) h),
    fun h => performPure_ok hs (compressData_ok (alg := .sha512) h)⟩

/-- Rule R6: a word is whole bytes. -/
theorem eight_mul_wordBytes (alg : Alg) : 8 * (wordBits alg / 8) = wordBits alg := by cases alg <;> rfl

theorem hashWords_lt (h : HashState) : ∀ x ∈ hashWords h, x < 2 ^ wordBits (algOf h) := by
  cases h <;> simp only [hashWords, List.forall_mem_cons, List.not_mem_nil, false_imp_iff, implies_true, and_true]
  case md5 h => exact ⟨h.a.isLt, h.b.isLt, h.c.isLt, h.d.isLt⟩
  case sha1 h => exact ⟨h.a.isLt, h.b.isLt, h.c.isLt, h.d.isLt, h.e.isLt⟩
  case sha256 h | sha512 h =>
    exact ⟨h.a.isLt, h.b.isLt, h.c.isLt, h.d.isLt, h.e.isLt, h.f.isLt, h.g.isLt, h.h.isLt⟩

theorem hashStateOfWords_hashWords (h : HashState) : hashStateOfWords (algOf h) (hashWords h) = h := by
  cases h <;> simp [hashStateOfWords, hashWords, algOf, wordAt]

/-- Settles O39: unpacking the packed words gives the words, which make the state again. -/
theorem hashStateBytesRoundTrip : Obligations.HashStateBytesRoundTrip := by
  intro h
  have hsize : stateSize (algOf h) = digestSize (algOf h) := by cases algOf h <;> rfl
  have hpos : 0 < wordBits (algOf h) / 8 := by cases algOf h <;> decide
  refine ⟨?_, by rw [hashBytes_length, hsize], hsize⟩
  have hwords : ∀ x ∈ hashWords h, x < 2 ^ (8 * (wordBits (algOf h) / 8)) := by
    rw [eight_mul_wordBytes]
    exact hashWords_lt h
  rw [hashStateOfBytes, hashBytes, unpackWords_pack _ hpos hwords, hashStateOfWords_hashWords]

/-! ## PAD, rules R120 and R125 -/

theorem padData_ok {alg : Alg} {p : Bytes} (h : p.length = 16) :
    padData alg p = .ok (algPadding alg (wordValue .big p)) := by
  rw [padData, padOperand, if_neg (not_not.mpr h)]
  rfl

/-- Rule R120: the zero bytes complete a block. -/
theorem add_padZeros_mod {B : Nat} (T L : Nat) (hL : 1 + L ≤ B) : (T + 1 + padZeros T B L + L) % B = 0 := by
  have h := add_padding_length_mod (T := T) hL .big
  rw [padding_length] at h
  rw [← h]
  congr 1
  omega

/-- Rule R120: z is least among the numbers of zero bytes that complete a block. -/
theorem padZeros_le {T B L z : Nat} (hL : 1 + L ≤ B) (hz : (T + 1 + z + L) % B = 0) : padZeros T B L ≤ z := by
  have hsame : T + 1 + L + padZeros T B L ≡ T + 1 + L + z [MOD B] := by
    rw [Nat.ModEq, Nat.add_right_comm, add_padZeros_mod T L hL, Nat.add_right_comm _ L, hz]
  have hmod : padZeros T B L ≡ z [MOD B] := Nat.ModEq.add_left_cancel' _ hsame
  have hlt : padZeros T B L < B := Nat.mod_lt _ (by omega)
  calc padZeros T B L = z % B := (Nat.mod_eq_of_lt hlt).symm.trans hmod
    _ ≤ z := Nat.mod_le _ _

/-- Settles O40: DATA is the padding function, whose number of zero bytes is the least. -/
theorem padReturnsMinimalPadding : Obligations.PadReturnsMinimalPadding := by
  intro alg s r hs hlen T B L
  have hL : 1 + L ≤ B := one_add_lengthSize_le_blockSize alg
  exact ⟨padZeros T B L, performPure_ok (f := padData alg) hs (padData_ok hlen), add_padZeros_mod T L hL,
    fun _ => padZeros_le hL⟩

/-! ## ROTL and ROTR, rules R105 and R106 -/

theorem rotateOperand_ok {w : RotWidth} {p : Bytes} (hlen : p.length = 8)
    (hrange : wordValue .big p < 2 ^ rotBits w) : rotateOperand w p = .ok (wordValue .big p) := by
  rw [rotateOperand, if_neg (not_not.mpr hlen), if_neg (Nat.not_le.mpr hrange)]

/-- Bit `i` of the operand as a word of its width. -/
theorem getLsbD_operand {w x i : Nat} (hi : i < w) : (BitVec.ofNat w x).getLsbD i = x.testBit i := by
  rw [BitVec.getLsbD_ofNat, decide_eq_true hi, Bool.true_and]

/-- Rule R105: the place a bit comes from, as a difference of natural numbers. -/
theorem rotl_place (w : RotWidth) (i amt : Nat) :
    (((i : Int) - amt) % (rotBits w : Int)).toNat = (i + (rotBits w - amt % rotBits w)) % rotBits w := by
  cases w <;> simp only [rotBits] <;> omega

theorem rotBits_pos (w : RotWidth) : 0 < rotBits w := by cases w <;> decide

section RotateData

variable {w : RotWidth} {p : Bytes} (amt : Nat) (hlen : p.length = 8) (hrange : wordValue .big p < 2 ^ rotBits w)
include hlen hrange

theorem rotlData_ok :
    rotlData w amt p = .ok (scalarBytes (rotl (BitVec.ofNat (rotBits w) (wordValue .big p)) amt).toNat) := by
  rw [rotlData, rotateOperand_ok hlen hrange]
  rfl

theorem rotrData_ok :
    rotrData w amt p = .ok (scalarBytes (rotr (BitVec.ofNat (rotBits w) (wordValue .big p)) amt).toNat) := by
  rw [rotrData, rotateOperand_ok hlen hrange]
  rfl

end RotateData

/-- Settles O44: bit by bit, from the bits of `rotl`. -/
theorem rotlReturnsRotatedWord : Obligations.RotlReturnsRotatedWord := by
  intro w amt s r hs hlen hrange
  refine ⟨_, performPure_ok hs (rotlData_ok amt hlen hrange), BitVec.isLt _, fun i hi => ?_⟩
  rw [BitVec.testBit_toNat, getLsbD_rotl hi, rotl_place, getLsbD_operand (Nat.mod_lt _ (rotBits_pos w))]

/-- Settles O45: bit by bit, from the bits of `rotr`. -/
theorem rotrReturnsRotatedWord : Obligations.RotrReturnsRotatedWord := by
  intro w amt s r hs hlen hrange
  have hplace (i : Nat) : (((i : Int) + amt) % (rotBits w : Int)).toNat = (i + amt) % rotBits w := by
    exact_mod_cast Int.toNat_natCast ((i + amt) % rotBits w)
  refine ⟨_, performPure_ok hs (rotrData_ok amt hlen hrange), BitVec.isLt _, fun i hi => ?_⟩
  rw [BitVec.testBit_toNat, getLsbD_rotr hi, hplace, getLsbD_operand (Nat.mod_lt _ (rotBits_pos w))]

/-- Rules R75 and R101: a rotation right is the rotation left by the complement of its amount. -/
theorem rotr_eq_rotl_complement {w : Nat} (hw : 0 < w) (x : BitVec w) (n : Int) :
    rotr x n = rotl x ((((w : Int) - n) % w).toNat : Nat) := by
  rw [natCast_toNat_emod hw, rotl_emod, rotr_eq_rotl_neg, ← rotl_add_width x (-n), neg_add_eq_sub]

/-- Settles O52: the two commands compute the same DATA from every payload. -/
theorem rotrIsRotlByTheComplement : Obligations.RotrIsRotlByTheComplement := by
  intro w amt s r hs
  have hdata : rotrData w amt = rotlData w (((rotBits w : Int) - amt) % rotBits w).toNat := by
    funext p
    simp only [rotrData, rotlData, rotr_eq_rotl_complement (rotBits_pos w)]
  obtain ⟨e, st, d, hexec, -⟩ := exec_ends (.rotr w amt) hs
  exact ⟨_, hexec, (congrArg s.performPure hdata).symm.trans hexec⟩

/-! ## PACK and UNPACK, rules R107 and R108 -/

theorem packOperands_ok {wsc : Nat} {p : Bytes} (hlen : p.length % 8 = 0)
    (hrange : ∀ x ∈ unpackWords 8 .big p, x < 2 ^ (8 * 2 ^ wsc)) :
    packOperands wsc p = .ok (unpackWords 8 .big p) := by
  rw [packOperands, if_neg (not_not.mpr hlen)]
  exact if_pos (List.all_eq_true.mpr fun x hx => decide_eq_true (hrange x hx))

theorem forall_mem_unpackWords {ws : Nat} {order : Endian} {p : Bytes} {P : Nat → Prop}
    (h : ∀ j, j < p.length / ws → P (wordValue order (slice p (j * ws) (j * ws + ws)))) :
    ∀ x ∈ unpackWords ws order p, P x := by
  intro x hx
  obtain ⟨j, hj, rfl⟩ := List.mem_map.mp hx
  exact h j (List.mem_range.mp hj)

theorem getD_unpackWords {ws j : Nat} {p : Bytes} (order : Endian) (hj : j < p.length / ws) :
    (unpackWords ws order p).getD j 0 = wordValue order (slice p (j * ws) (j * ws + ws)) := by
  simp [unpackWords, hj]

/-- Rule R102: byte `i` of word `j` stands at place `j * ws + i`. -/
theorem getD_pack {ws i : Nat} (hi : i < ws) (order : Endian) {xs : List Nat} {j : Nat} (hj : j < xs.length) :
    (pack ws order xs).getD (j * ws + i) 0#8 = packByte ws order (xs.getD j 0) i := by
  induction xs generalizing j with
  | nil => cases hj
  | cons x xs ih =>
    rw [pack_cons]
    cases j with
    | zero =>
      rw [Nat.zero_mul, Nat.zero_add, List.getD_append _ _ _ _ (by simpa using hi)]
      simp [packWord, hi]
    | succ j =>
      rw [List.getD_append_right _ _ _ _ (by simp [Nat.succ_mul]; omega), List.getD_cons_succ,
        ← ih (Nat.lt_of_succ_lt_succ hj), packWord_length]
      congr 1
      rw [Nat.succ_mul]
      omega

/-- Rule R102: the place value of a byte in each byte order. -/
theorem toNat_packByte (ws : Nat) (order : Endian) (x i : Nat) :
    (packByte ws order x i).toNat =
      x / 2 ^ (8 * (match order with | .little => i | .big => ws - 1 - i)) % 256 := by
  cases order <;> simp [packByte, Nat.shiftRight_eq_div_pow]

/-- Settles O49: the words are in range, and DATA is their bytes place by place. -/
theorem packReturnsBytesOfWords : Obligations.PackReturnsBytesOfWords := by
  intro order wsc s r _ hs hlen word hword
  have hwords : ∀ x ∈ unpackWords 8 .big r.payload, x < 2 ^ (8 * 2 ^ wsc) :=
    forall_mem_unpackWords fun j hj => Nat.mul_comm 8 j ▸ hword j hj
  have hdata : packData order wsc r.payload = .ok (pack (2 ^ wsc) order (unpackWords 8 .big r.payload)) := by
    rw [packData, packOperands_ok hlen hwords]
    rfl
  refine ⟨_, performPure_ok hs hdata, by simp, fun j i hj hi => ?_⟩
  rw [getD_pack hi order (by simpa using hj), getD_unpackWords .big hj, Nat.mul_comm j 8]
  exact toNat_packByte (2 ^ wsc) order (word j) i

theorem unpackData_ok {order : Endian} {wsc : Nat} {p : Bytes} (hlen : p.length % 2 ^ wsc = 0) :
    unpackData order wsc p = .ok (pack 8 .big (unpackWords (2 ^ wsc) order p)) := by
  rw [unpackData, wordSize, unpack, if_neg (not_not.mpr hlen)]
  rfl

/-- Rule R67: a word of at most 8 bytes fits the 8 bytes of a scalar. -/
theorem unpackWords_lt {wsc : Nat} (hwsc : wsc < 4) (order : Endian) (p : Bytes) :
    ∀ x ∈ unpackWords (2 ^ wsc) order p, x < 2 ^ (8 * 8) := by
  have hws : 2 ^ wsc ≤ 8 := Nat.pow_le_pow_right (by decide) (Nat.le_of_lt_succ hwsc)
  refine forall_mem_unpackWords fun j _ => lt_of_lt_of_le (wordValue_lt order _) ?_
  refine Nat.pow_le_pow_right (by decide) (Nat.mul_le_mul_left 8 ?_)
  rw [slice, List.length_take]
  omega

/-- Settles O50: reading the words of DATA gives the words of the payload, each of which fits 8 bytes. -/
theorem unpackReturnsWordsOfBytes : Obligations.UnpackReturnsWordsOfBytes := by
  intro order wsc s r hwsc hs hlen
  refine ⟨_, performPure_ok hs (unpackData_ok hlen), by simp, fun j hj => ?_⟩
  have hwords := unpackWords_pack .big (ws := 8) (by decide) (unpackWords_lt hwsc order r.payload)
  rw [← getD_unpackWords order hj, ← hwords, getD_unpackWords .big (by simpa using hj), hwords, Nat.mul_comm 8 j]

end Sys2Proof.Machine

/-! SUPPORT. The assembler (30_encoding.md rules R74 and R75) and the constant tables (rules R141 to R212). -/

namespace Sys2Proof.Machine

/-! ## The rows of the table of rule R74 -/

theorem asmCommand_of_wellFormed {i : Instr} (h : i.WellFormed) (p : Bytes) :
    asmCommand i (some p) = some [(encode i, p)] := if_pos h

/-- An operand that does not fit its field is refused, whatever the payload. -/
theorem asmCommand_eq_none {i : Instr} (h : i.wellFormed = false) (p : Option Bytes) : asmCommand i p = none :=
  if_neg (by rw [h]; exact Bool.false_ne_true)

theorem numberBytes_of_lt {ws : Nat} {ns : List Nat} (h : ∀ n ∈ ns, n < 2 ^ (8 * ws)) :
    numberBytes ws ns = some (pack ws .big ns) :=
  if_pos (List.all_eq_true.mpr fun n hn => decide_eq_true (h n hn))

theorem numberBytes_singleton {ws n : Nat} (h : n < 2 ^ (8 * ws)) : numberBytes ws [n] = some (pack ws .big [n]) :=
  numberBytes_of_lt (by simpa using h)

theorem assemble_pad (alg : Alg) {n : Nat} (hn : n < 2 ^ 128) :
    assemble (.pad alg n) = some [(encode (.pad alg), pack 16 .big [n])] := by
  rw [assemble, numberBytes_singleton hn, asmCommand_of_wellFormed rfl]

theorem assemble_rotl (w : RotWidth) {a n : Nat} (ha : a < 64) (hn : n < 2 ^ 64) :
    assemble (.rotl w a n) = some [(encode (.rotl w a), pack 8 .big [n])] := by
  rw [assemble, numberBytes_singleton hn, asmCommand_of_wellFormed (i := .rotl w a) (decide_eq_true ha)]

theorem assemble_rotr (w : RotWidth) {a n : Nat} (ha : a < 64) (hn : n < 2 ^ 64) :
    assemble (.rotr w a n) = some [(encode (.rotr w a), pack 8 .big [n])] := by
  rw [assemble, numberBytes_singleton hn, asmCommand_of_wellFormed (i := .rotr w a) (decide_eq_true ha)]

/-- Rule R67: the code of a word size is its logarithm. -/
theorem wordSizeCode_two_pow : ∀ k, k < 4 → wordSizeCode (2 ^ k) = some k := by decide

theorem wordSizeCode_eq_none {ws : Nat} (h : ws ∉ [1, 2, 4, 8]) : wordSizeCode ws = none := by
  unfold wordSizeCode
  split
  case h_5 => rfl
  all_goals exact absurd (by decide) h

theorem assemble_pack (o : Endian) {k : Nat} {ns : List Nat} (hk : k < 4) (hns : ∀ n ∈ ns, n < 2 ^ 64) :
    assemble (.pack o (2 ^ k) ns) = some [(encode (.pack o k), pack 8 .big ns)] := by
  rw [assemble, wordSizeCode_two_pow k hk, Option.bind_some, numberBytes_of_lt hns,
    asmCommand_of_wellFormed (i := .pack o k) (decide_eq_true hk)]

theorem assemble_unpack (o : Endian) {k : Nat} (hk : k < 4) (m : Bytes) :
    assemble (.unpack o (2 ^ k) m) = some [(encode (.unpack o k), m)] := by
  rw [assemble, wordSizeCode_two_pow k hk, Option.bind_some,
    asmCommand_of_wellFormed (i := .unpack o k) (decide_eq_true hk)]

/-! ## The text of an UPDATE line, rule R74 -/

/-- A line of UPDATE and one quoted operand stands for the command with the operand's bytes. -/
theorem assembleText_update {m : Bytes} {cs : List Char} (hne : cs ≠ [])
    (h : ∀ fuel, tokens (fuel + 1) cs = some [.bytes m]) :
    assembleText (String.ofList ("UPDATE ".toList ++ cs)) = some [(0x02#32, m)] := by
  obtain ⟨fuel, hfuel⟩ : ∃ fuel, ("UPDATE ".toList ++ cs).length = fuel + 1 + 2 := by
    have := List.length_pos_iff.mpr hne
    exact ⟨cs.length + 4, by simp⟩
  have htokens : tokens ("UPDATE ".toList ++ cs).length ("UPDATE ".toList ++ cs) =
      some [.word "UPDATE".toList, .bytes m] := by
    rw [hfuel, tokens_update, h]
    rfl
  rw [assembleText, String.toList_ofList, parseLine_update htokens]
  rfl

theorem assembleText_update_hex (m : Bytes) :
    assembleText (String.ofList ("UPDATE ".toList ++ 'x' :: '"' ::
      ((hex m).map (fun b => Char.ofNat b.toNat) ++ ['"']))) = some [(0x02#32, m)] := by
  refine assembleText_update (by simp) fun fuel => ?_
  rw [tokens_hex, quotedHex_hex, Option.bind_some, tokens_nil]
  rfl

/-- Settles O59: the rows by the operands that fit, the refusals by the checks they fail, and the text by what the
assembler reads from a quoted operand; a closed line is assembled. -/
theorem assemblyLinesHaveTheirWords : Obligations.AssemblyLinesHaveTheirWords := by
  unfold Obligations.AssemblyLinesHaveTheirWords
  intro chars escaped
  refine ⟨fun m => ⟨rfl, rfl, rfl, rfl, rfl, rfl, rfl, rfl, rfl⟩, rfl, rfl,
    fun n hn => ⟨assemble_pad .md5 hn, assemble_pad .sha1 hn, assemble_pad .sha256 hn, assemble_pad .sha512 hn⟩,
    fun a n ha hn => ⟨assemble_rotl .w32 ha hn, assemble_rotl .w64 ha hn, assemble_rotr .w32 ha hn,
      assemble_rotr .w64 ha hn⟩,
    fun k ns m hk hns => ⟨assemble_pack .little hk hns, assemble_pack .big hk hns, assemble_unpack .little hk m,
      assemble_unpack .big hk m⟩,
    fun w a n ha => ?amount, fun o ws ns m hws => ?size, fun i m hi => asmCommand_of_wellFormed hi m,
    fun m => assembleText_update_hex m, fun m hm => ?text, ?lines⟩
  case amount =>
    have hfit : amountOk a = false := decide_eq_false (Nat.not_lt.mpr ha)
    exact ⟨asmCommand_eq_none (i := .rotl w a) hfit _, asmCommand_eq_none (i := .rotr w a) hfit _⟩
  case size =>
    rw [assemble, assemble, wordSizeCode_eq_none hws]
    exact ⟨rfl, rfl⟩
  case text =>
    refine assembleText_update (cs := '"' :: (escaped m ++ ['"'])) (by simp) fun fuel => ?_
    rw [tokens_text, quotedText_escaped m hm, Option.bind_some, tokens_nil]
    rfl
  case lines => and_intros <;> decide +kernel

/-- Settles O60: both sides are the same words. -/
theorem pseudoInstructionsExpand : Obligations.PseudoInstructionsExpand :=
  fun _ _ => ⟨rfl, _, _, _, rfl, rfl, rfl, rfl, rfl⟩

/-! ## The constant tables and their origin, rules R144, R191, R192, R211 and R212 -/

/-- The first 80 primes. -/
def firstPrimes : List Nat :=
  [2, 3, 5, 7, 11, 13, 17, 19, 23, 29, 31, 37, 41, 43, 47, 53, 59, 61, 67, 71, 73, 79, 83, 89, 97, 101, 103, 107, 109,
    113, 127, 131, 137, 139, 149, 151, 157, 163, 167, 173, 179, 181, 191, 193, 197, 199, 211, 223, 227, 229, 233, 239,
    241, 251, 257, 263, 269, 271, 277, 281, 283, 293, 307, 311, 313, 317, 331, 337, 347, 349, 353, 359, 367, 373, 379,
    383, 389, 397, 401, 409]

theorem filter_prime_eq_firstPrimes :
    ((List.range 410).filter fun p => decide (2 ≤ p) && (List.range p).all fun q => q < 2 || p % q ≠ 0) =
      firstPrimes := by decide +kernel

/-- `k` is the first `w` bits of the fractional part of the `e`-th root of `p`. -/
abbrev IsRootFraction (e w p k : Nat) : Prop :=
  ∃ n, n < 32 ∧ (n * 2 ^ w + k) ^ e ≤ p * 2 ^ (e * w) ∧ p * 2 ^ (e * w) < (n * 2 ^ w + k + 1) ^ e

/-- Rules R191 and R211: square roots of the first eight primes. -/
theorem sha2Iv_isRootFraction : ∀ i, i < 8 →
    IsRootFraction 2 32 (firstPrimes.getD i 0) ((hashWords (ivOf .sha256)).getD i 0) ∧
    IsRootFraction 2 64 (firstPrimes.getD i 0) ((hashWords (ivOf .sha512)).getD i 0) := by decide +kernel

/-- Rule R212: cube roots of the first 80 primes. -/
theorem k512_isRootFraction : ∀ t, t < 80 →
    IsRootFraction 3 64 (firstPrimes.getD t 0) (k512.getD t 0#64).toNat := by decide +kernel

/-- Rule R192: K256 is the upper halves of K512. -/
theorem k256_eq_upper_k512 : ∀ t, t < 64 →
    (k512.getD t 0#64).toNat / 2 ^ 32 = (k256.getD t 0#32).toNat := by decide +kernel

/-- Settles O57: the tables are the lists written out, and the SHA constants are roots of the listed primes. -/
theorem constantTablesAgree : Obligations.ConstantTablesAgree := by
  unfold Obligations.ConstantTablesAgree
  rw [filter_prime_eq_firstPrimes]
  exact ⟨rfl, rfl, rfl, rfl, rfl, rfl, rfl, rfl, by decide, rfl, sha2Iv_isRootFraction, k512_isRootFraction,
    k256_eq_upper_k512⟩

end Sys2Proof.Machine
